-- ==== Sys2Proof/Word.lean ====
section
/-! DEFINITION. The widths of the machine's words (00_scope.md R7, 30_encoding.md R80). -/

namespace Sys2Proof

/-- A 32-bit register value (R7, R60). -/
abbrev Word := BitVec 32

/-- An IEEE 754 binary32 pattern, held in a 32-bit register (R7, R13, R63). -/
abbrev F32 := BitVec 32

/-- A byte address of the 256-byte register space (R60). -/
abbrev RegAddr := BitVec 8

/-- A host transaction packet: WE in bit 40, ADDR in 39:32, DATA in 31:0 (R80). -/
abbrev Packet := BitVec 41

/-- The time input: a 64-bit unsigned count (R7, R69). -/
abbrev Time := BitVec 64

/-- A raw sensor reading: 16-bit two's complement (R7, R66). -/
abbrev Raw := BitVec 16

end Sys2Proof
end

