-- ==== Sys2Proof/Config.lean ====
section
/-! DEFINITION. What an implementation fixes: the named parameters of 00_scope.md R6 at the defaults the
spec fixes for this hardware (log 13), and the free values, which have no body (logs 9 and 10). -/

namespace Sys2Proof.Config

/-- `GYRO_SCALE[fs]`, gyro LSB per deg/s: 131.0, 65.5, 32.8, 16.4 (R6, R130). -/
def gyroScale (fs : BitVec 2) : F32 :=
  match fs with
  | 0#2 => 0x43030000#32
  | 1#2 => 0x42830000#32
  | 2#2 => 0x42033333#32
  | 3#2 => 0x41833333#32

/-- `ACCEL_SCALE[fs]`, accelerometer LSB per g: 16384, 8192, 4096, 2048 (R6, R131). -/
def accelScale (fs : BitVec 2) : F32 :=
  match fs with
  | 0#2 => 0x46800000#32
  | 1#2 => 0x46000000#32
  | 2#2 => 0x45800000#32
  | 3#2 => 0x45000000#32

/-- `RAD_TO_DEG`, the binary32 nearest to 180/π (R6). -/
def radToDeg : F32 := 0x42652EE1#32

/-- `TIME_HZ`, ticks of the time input per second (R6). -/
def timeHz : Nat := 1000000

/-- `CAL_DELAY`, the least wait between two calibration samples, in ticks (R6, R141). -/
def calDelay : Nat := 2000

/-- `ID_VALUE`, the identification word (R6, R46). -/
def idValue : Word := 0x43464931#32

/-- The binary32 operations that can give a NaN, so that the free pattern may differ from one to another. -/
inductive FloatOp where
  | add | mul | div | sqrt
  deriving DecidableEq, Repr

/-- FREE VALUE (log 9). The sign (bit 22) and the payload (bits 21:0) of the quiet NaN that an operation
gives on these operands: IEEE 754, to which R11 refers, leaves both open. -/
opaque nanBits : FloatOp → F32 → F32 → BitVec 23

/-- FREE VALUE (log 10). The magnitude bits of `ATAN2_F32` on arguments for which R14 states no result
(non-finite ones) or for which this model's arithmetic does not settle the rounding. -/
opaque atan2Free : F32 → F32 → F32

end Sys2Proof.Config
end

