-- ==== Sys2Proof/Syntax.lean ====
section
/-! DEFINITION. The host's transactions as abstract syntax: one constructor of `Instr` per row of
spec/opcode_table.json (30_encoding.md R80 to R86). A field that the table ignores is no operand (log 15). -/

namespace Sys2Proof

/-- The registers of the address map (20_memory.md R61). -/
inductive Reg where
  /-- `CMD` at `0x00`. -/
  | cmd
  /-- `STATUS` at `0x04`. -/
  | status
  /-- `CONFIG` at `0x08`. -/
  | config
  /-- `RETRY_MAX` at `0x0C`. -/
  | retryMax
  /-- `CAL_N` at `0x10`. -/
  | calN
  /-- `ALPHA` at `0x14`. -/
  | alpha
  /-- `BETA` at `0x18`. -/
  | beta
  /-- `ACC_STAT_TH` at `0x1C`. -/
  | accStatTh
  /-- `GZ_STAT_TH` at `0x20`. -/
  | gzStatTh
  /-- `ROLL` at `0x24`. -/
  | roll
  /-- `PITCH` at `0x28`. -/
  | pitch
  /-- `YAW` at `0x2C`. -/
  | yaw
  /-- `YAW_BIAS` at `0x30`. -/
  | yawBias
  /-- `T_LAST_LO` at `0x34`. -/
  | tLastLo
  /-- `T_LAST_HI` at `0x38`. -/
  | tLastHi
  /-- `GOFF_X` at `0x3C`. -/
  | goffX
  /-- `GOFF_Y` at `0x40`. -/
  | goffY
  /-- `GOFF_Z` at `0x44`. -/
  | goffZ
  /-- `AOFF_X` at `0x48`. -/
  | aoffX
  /-- `AOFF_Y` at `0x4C`. -/
  | aoffY
  /-- `AOFF_Z` at `0x50`. -/
  | aoffZ
  /-- `ID` at `0x54`. -/
  | id
  deriving DecidableEq, Repr

/-- One host transaction, as decoded (40_host_access.md R100). -/
inductive Instr where
  /-- NOP: `wr CMD, 0` (R106). -/
  | nop
  /-- CALIBRATE: `wr CMD, 1` (R137, R138). -/
  | calibrate
  /-- UPDATE: `wr CMD, 2` (R172, R173). -/
  | update
  /-- RD_CMD (R102). -/
  | rdCmd
  /-- RD_STATUS (R101). -/
  | rdStatus
  /-- RD_CONFIG (R101). -/
  | rdConfig
  /-- RD_RETRY_MAX (R101). -/
  | rdRetryMax
  /-- RD_CAL_N (R101). -/
  | rdCalN
  /-- RD_ALPHA (R101). -/
  | rdAlpha
  /-- RD_BETA (R101). -/
  | rdBeta
  /-- RD_ACC_STAT_TH (R101). -/
  | rdAccStatTh
  /-- RD_GZ_STAT_TH (R101). -/
  | rdGzStatTh
  /-- RD_ROLL (R101). -/
  | rdRoll
  /-- RD_PITCH (R101). -/
  | rdPitch
  /-- RD_YAW (R101). -/
  | rdYaw
  /-- RD_YAW_BIAS (R101). -/
  | rdYawBias
  /-- RD_T_LAST_LO (R101). -/
  | rdTLastLo
  /-- RD_T_LAST_HI (R101). -/
  | rdTLastHi
  /-- RD_GOFF_X (R101). -/
  | rdGoffX
  /-- RD_GOFF_Y (R101). -/
  | rdGoffY
  /-- RD_GOFF_Z (R101). -/
  | rdGoffZ
  /-- RD_AOFF_X (R101). -/
  | rdAoffX
  /-- RD_AOFF_Y (R101). -/
  | rdAoffY
  /-- RD_AOFF_Z (R101). -/
  | rdAoffZ
  /-- RD_ID (R103). -/
  | rdId
  /-- WR_STATUS (R108). -/
  | wrStatus (data : Word)
  /-- WR_CONFIG (R109). -/
  | wrConfig (data : Word)
  /-- WR_RETRY_MAX (R110). -/
  | wrRetryMax (data : Word)
  /-- WR_CAL_N (R111). -/
  | wrCalN (data : Word)
  /-- WR_ALPHA (R112). -/
  | wrAlpha (data : Word)
  /-- WR_BETA (R113). -/
  | wrBeta (data : Word)
  /-- WR_ACC_STAT_TH (R114). -/
  | wrAccStatTh (data : Word)
  /-- WR_GZ_STAT_TH (R115). -/
  | wrGzStatTh (data : Word)
  /-- WR_ROLL: read-only, always rejected (R116). -/
  | wrRoll
  /-- WR_PITCH: read-only, always rejected (R116). -/
  | wrPitch
  /-- WR_YAW: read-only, always rejected (R116). -/
  | wrYaw
  /-- WR_YAW_BIAS: read-only, always rejected (R116). -/
  | wrYawBias
  /-- WR_T_LAST_LO: read-only, always rejected (R116). -/
  | wrTLastLo
  /-- WR_T_LAST_HI: read-only, always rejected (R116). -/
  | wrTLastHi
  /-- WR_GOFF_X: read-only, always rejected (R116). -/
  | wrGoffX
  /-- WR_GOFF_Y: read-only, always rejected (R116). -/
  | wrGoffY
  /-- WR_GOFF_Z: read-only, always rejected (R116). -/
  | wrGoffZ
  /-- WR_AOFF_X: read-only, always rejected (R116). -/
  | wrAoffX
  /-- WR_AOFF_Y: read-only, always rejected (R116). -/
  | wrAoffY
  /-- WR_AOFF_Z: read-only, always rejected (R116). -/
  | wrAoffZ
  /-- WR_ID: read-only, always rejected (R116). -/
  | wrId
  /-- CMD_RESERVED: every other command word (R85, R105). -/
  | cmdReserved (data : Word)
  /-- RD_UNMAPPED: a read of an unmapped or misaligned address (R104). -/
  | rdUnmapped (addr : RegAddr)
  /-- WR_UNMAPPED: a write to an unmapped or misaligned address (R116). -/
  | wrUnmapped (addr : RegAddr)
  deriving DecidableEq, Repr

end Sys2Proof
end

