-- ==== Sys2Proof/Machine/State.lean ====
section
/-! DEFINITION. The state of CFIMU as plain data (10_state.md), the agents around it (00_scope.md R8), the
outcomes of a step, and the state after reset (70_reset_and_hazards.md R230). -/

namespace Sys2Proof.Machine

/-- Three binary32 values, one per axis (R44, R45, R51, R52). -/
structure Vec3 where
  x : F32
  y : F32
  z : F32
  deriving DecidableEq, Repr

/-- The triple of +0.0. -/
def Vec3.zero : Vec3 := ⟨0#32, 0#32, 0#32⟩

/-- The stored fields of STATUS (R23). BUSY is not stored: it is `S.phase ≠ IDLE` (R24, log 12). -/
structure Status where
  /-- R25 -/
  calValid : Bool
  /-- R26 -/
  tValid : Bool
  /-- R27 -/
  done : Bool
  /-- R28 -/
  err : BitVec 3
  /-- R29 -/
  cmdRej : Bool
  /-- R30 -/
  wrRej : Bool
  /-- R31 -/
  lastOp : BitVec 2
  deriving DecidableEq, Repr

/-- The fields of CONFIG (R32). -/
structure ConfigReg where
  gyroFs : BitVec 2
  accelFs : BitVec 2
  irqEn : Bool
  deriving DecidableEq, Repr

/-- The OrientationState registers (R39 to R43); T_LAST is the one 64-bit value of R43 (log 12). -/
structure Orientation where
  roll : F32
  pitch : F32
  yaw : F32
  yawBias : F32
  tLast : Time
  deriving DecidableEq, Repr

/-- The CalibrationOffsets registers GOFF_X..AOFF_Z (R44, R45). -/
structure Offsets where
  gyro : Vec3
  accel : Vec3
  deriving DecidableEq, Repr

/-- The sequencer phases (R48). -/
inductive Phase where
  | idle
  | calGyro
  | calAccel
  | calDelay
  | calFinish
  | updAccel
  | updGyro
  deriving DecidableEq, Repr

/-- The internal sequencer state (R48 to R53). -/
structure Sequencer where
  /-- R48 -/
  phase : Phase
  /-- R49 -/
  attempt : BitVec 8
  /-- R50 -/
  sampleIdx : BitVec 16
  /-- R51 -/
  gsum : Vec3
  /-- R51 -/
  asum : Vec3
  /-- R52 -/
  acal : Vec3
  /-- R53 -/
  tMark : Time
  deriving DecidableEq, Repr

/-- The two kinds of read request on the sensor port (R65). -/
inductive SensorKind where
  | gyro
  | accel
  deriving DecidableEq, Repr

/-- The answer of the link to one attempt (R66). -/
inductive SensorAnswer where
  | ok (x y z : Raw)
  | err
  deriving DecidableEq, Repr

/-- One step of the transition system (R8): a host transaction, a block step, or hardware reset. -/
inductive Event where
  | transact (p : Packet)
  | block
  | rst
  deriving DecidableEq, Repr

/-- The agents around the block, as the MODEL's own data (logs 1 to 8): which of them moves next, the draws
that the sensor link and the time source are still to give, and what came out of the machine. -/
structure Env where
  /-- The steps still to come, the next one first (R8). -/
  schedule : List Event
  /-- The link's answers to the gyro attempts still to come (R66). -/
  gyroLink : List SensorAnswer
  /-- The link's answers to the accelerometer attempts still to come (R66). -/
  accelLink : List SensorAnswer
  /-- The samples of the time input still to come (R69). -/
  clock : List Time
  /-- The response of the last read packet (R80): an output, none before the first read. -/
  lastRead : Option Word
  /-- The requests presented on the sensor port so far, the newest first (R65, R66): an output. -/
  attempts : List SensorKind
  deriving DecidableEq, Repr

/-- The whole machine: the register file (R21), the sequencer (R48 to R53) and the agents around it. -/
structure State where
  /-- STATUS (R23) -/
  status : Status
  /-- CONFIG (R32) -/
  config : ConfigReg
  /-- RETRY_MAX bits 7:0 (R33) -/
  retryMax : BitVec 8
  /-- CAL_N bits 15:0 (R34) -/
  calN : BitVec 16
  /-- ALPHA (R35) -/
  alpha : F32
  /-- BETA (R36) -/
  beta : F32
  /-- ACC_STAT_TH (R37) -/
  accStatTh : F32
  /-- GZ_STAT_TH (R38) -/
  gzStatTh : F32
  /-- ROLL to T_LAST_HI (R39 to R43) -/
  orient : Orientation
  /-- GOFF_X to AOFF_Z (R44, R45) -/
  offsets : Offsets
  /-- R48 to R53 -/
  seq : Sequencer
  /-- The model's own fields. -/
  env : Env
  deriving DecidableEq, Repr

/-- Why the machine stops with a fault: never. CFIMU has no traps (R202); every error is a result code
(R200) or a rejection flag (R203), and the machine goes on (log 20). -/
inductive Fault where
  deriving DecidableEq, Repr

/-- Why an instruction is refused. -/
inductive Refusal where
  /-- Raised only by an arm of `exec` for an instruction that has no meaning yet; safe. No arm raises it. -/
  | notModelled (mnemonic : String)
  deriving DecidableEq, Repr

/-- STATUS after reset, `0x00000000` (R23, R230). -/
def Status.reset : Status :=
  { calValid := false, tValid := false, done := false, err := 0#3, cmdRej := false, wrRej := false,
    lastOp := 0#2 }

/-- The OrientationState after reset (R39 to R43, R230). -/
def Orientation.reset : Orientation :=
  { roll := 0#32, pitch := 0#32, yaw := 0#32, yawBias := 0#32, tLast := 0#64 }

/-- The sequencer after reset (R48 to R53, R230). -/
def Sequencer.reset : Sequencer :=
  { phase := .idle, attempt := 0#8, sampleIdx := 0#16, gsum := Vec3.zero, asum := Vec3.zero,
    acal := Vec3.zero, tMark := 0#64 }

/-- Nothing listed for the agents to do and nothing observed (DESIGN CHOICE, log 8). -/
def Env.empty : Env :=
  { schedule := [], gyroLink := [], accelLink := [], clock := [], lastRead := none, attempts := [] }

/-- The machine right after reset: every register and every internal variable at the value of R230. -/
def State.reset : State :=
  { status := Status.reset
    config := { gyroFs := 0#2, accelFs := 0#2, irqEn := false }
    retryMax := 0x32#8
    calN := 0x1F4#16
    alpha := 0x3F7AE148#32
    beta := 0#32
    accStatTh := 0#32
    gzStatTh := 0#32
    orient := Orientation.reset
    offsets := { gyro := Vec3.zero, accel := Vec3.zero }
    seq := Sequencer.reset
    env := Env.empty }

end Sys2Proof.Machine
end

