-- ==== Sys2Proof/Machine/Flags.lean ====
section
/-! DEFINITION. STATUS, its flags and the interrupt output (10_state.md R23 to R31, 60_exceptions.md R204). -/

namespace Sys2Proof.Machine

/-- STATUS.BUSY: 1 exactly when `S.phase` is not IDLE (R24, R48). -/
def State.busy (s : State) : Bool := decide (s.seq.phase ≠ .idle)

/-- The STATUS word: `{18'b0, LAST_OP, 2'b0, WR_REJ, CMD_REJ, 1'b0, ERR, DONE, T_VALID, CAL_VALID, BUSY}` (R101). -/
def State.statusWord (s : State) : Word :=
  0#18 ++ s.status.lastOp ++ 0#2 ++ BitVec.ofBool s.status.wrRej ++ BitVec.ofBool s.status.cmdRej ++ 0#1 ++
    s.status.err ++ BitVec.ofBool s.status.done ++ BitVec.ofBool s.status.tValid ++
    BitVec.ofBool s.status.calValid ++ BitVec.ofBool s.busy

/-- The interrupt output: `irq = DONE and IRQ_EN`, a level (R204). -/
def State.irq (s : State) : Bool := s.status.done && s.config.irqEn

/-- A rejected CMD write sets CMD_REJ and changes nothing else (R29, R105). -/
def State.rejectCmd (s : State) : State := { s with status := { s.status with cmdRej := true } }

/-- A rejected register write sets WR_REJ and changes nothing else (R30, R107, R116). -/
def State.rejectWrite (s : State) : State := { s with status := { s.status with wrRej := true } }

/-- Write-one-to-clear: the flag after a write of this bit (R21, R108). -/
def writeOneToClear (flag bit : Bool) : Bool := flag && !bit

/-- A write to STATUS: DATA[3], DATA[8] and DATA[9] are clear requests, the other bits are ignored (R84, R108). -/
def Status.acknowledge (st : Status) (data : Word) : Status :=
  { st with
    done := writeOneToClear st.done (data.getLsbD 3)
    cmdRej := writeOneToClear st.cmdRej (data.getLsbD 8)
    wrRej := writeOneToClear st.wrRej (data.getLsbD 9) }

/-- What accepting a CALIBRATE or UPDATE does to STATUS: DONE and ERR cleared, LAST_OP the opcode (R27, R28,
R31, R138, R173). -/
def Status.accept (st : Status) (op : BitVec 2) : Status :=
  { st with done := false, err := 0#3, lastOp := op }

end Sys2Proof.Machine
end

