-- ==== Sys2Proof/Machine/Binary32.lean ====
section
/-! DEFINITION. IEEE 754 binary32 arithmetic on patterns (00_scope.md R11, R12): every operation is computed
exactly on integers and rational numbers and rounded once, to nearest with ties to even; subnormals are
kept; nothing is fused. A finite value is an integer multiple of 2^-149, the unit of `fMag` and `fVal`. -/

namespace Sys2Proof.Machine

open Sys2Proof.Config (FloatOp)

/-- `ONE`, 1.0 (R12). -/
def ONE : F32 := 0x3F800000#32
/-- `MINUS_ONE`, -1.0 (R12). -/
def MINUS_ONE : F32 := 0xBF800000#32
/-- `PZERO`, +0.0 (R12). -/
def PZERO : F32 := 0#32
/-- `L180`, 180.0 (R12). -/
def L180 : F32 := 0x43340000#32
/-- `L90`, 90.0 (R12). -/
def L90 : F32 := 0x42B40000#32
/-- `G1`, 1.0 g (R12). -/
def G1 : F32 := 0x3F800000#32

/-- The magnitude bits of +infinity (R63: exponent all ones, fraction 0). -/
def infBits : Nat := 0x7F800000

/-- The sign bit, bit 31 (R63). -/
def fSign (a : F32) : Bool := a.msb

/-- Bits 30:0 as a number; they order the magnitudes. -/
def fBits (a : F32) : Nat := a.toNat % 2 ^ 31

/-- A NaN: exponent all ones, fraction not 0. -/
def isNaN (a : F32) : Bool := decide (infBits < fBits a)

/-- ±infinity. -/
def isInf (a : F32) : Bool := fBits a == infBits

/-- Neither infinite nor a NaN. -/
def isFinite (a : F32) : Bool := decide (fBits a < infBits)

/-- The magnitude of the pattern with magnitude bits `n`, in units of 2^-149: `n` itself where the
exponent field is 0 (subnormal), else the 24-bit significand shifted by the exponent field less 1. -/
def magOfBits (n : Nat) : Nat :=
  if n < 2 ^ 23 then n else (2 ^ 23 + n % 2 ^ 23) * 2 ^ (n / 2 ^ 23 - 1)

/-- The magnitude of a finite value in units of 2^-149 (of ±infinity: 2^277, above every finite value). -/
def fMag (a : F32) : Nat := magOfBits (fBits a)

/-- The value of a finite pattern in units of 2^-149. -/
def fVal (a : F32) : Int := if fSign a then -(fMag a : Int) else (fMag a : Int)

/-- The pattern with this sign and these magnitude bits. -/
def mkF32 (neg : Bool) (bits : Nat) : F32 := BitVec.ofNat 32 (bits + if neg then 2 ^ 31 else 0)

/-- The magnitude bits of `p / q` (in units of 2^-149) rounded to nearest, ties to even; at and above the
overflow threshold, of infinity (R11). `e` is how many low bits of the integer part do not fit into 24. -/
def roundMag (p q : Nat) : Nat :=
  let e := Nat.log2 (p / q) - 23
  let d := q * 2 ^ e
  let k := p / d
  let r := p % d
  let k' := if d < 2 * r ∨ (2 * r = d ∧ k % 2 = 1) then k + 1 else k
  min (e * 2 ^ 23 + k') infBits

/-- An exact value (in units of 2^-149) rounded; 0 gives +0.0. -/
def ofExact (v : Int) : F32 := mkF32 (decide (v < 0)) (roundMag v.natAbs 1)

/-- The quiet NaN of an invalid operation or a NaN operand: sign and payload are free (log 9). -/
def nanOf (op : FloatOp) (a b : F32) : F32 :=
  let f := Config.nanBits op a b
  mkF32 (f.getLsbD 22) (0x7FC00000 + f.toNat % 2 ^ 22)

/-- `fneg(a)` flips the sign bit (R11). -/
def fneg (a : F32) : F32 := a ^^^ 0x80000000#32

/-- `fabs(a)` clears the sign bit (R11). -/
def fabs (a : F32) : F32 := a &&& 0x7FFFFFFF#32

/-- `fadd(a, b)` (R11). An exact zero sum is -0.0 only if both operands are negative zeros. -/
def fadd (a b : F32) : F32 :=
  if isNaN a || isNaN b then nanOf .add a b
  else if isInf a then
    if isInf b && fSign a != fSign b then nanOf .add a b else a
  else if isInf b then b
  else if fVal a + fVal b = 0 then mkF32 (fSign a && fSign b) 0
  else ofExact (fVal a + fVal b)

/-- `fsub(a, b)` (R11): the sum with the operand's sign flipped. -/
def fsub (a b : F32) : F32 := fadd a (fneg b)

/-- `fmul(a, b)` (R11); the exact product has unit 2^-298. -/
def fmul (a b : F32) : F32 :=
  let neg := fSign a != fSign b
  if isNaN a || isNaN b then nanOf .mul a b
  else if isInf a then
    if fMag b = 0 then nanOf .mul a b else mkF32 neg infBits
  else if isInf b then
    if fMag a = 0 then nanOf .mul a b else mkF32 neg infBits
  else mkF32 neg (roundMag (fMag a * fMag b) (2 ^ 149))

/-- `fdiv(a, b)` (R11); a non-zero value over 0 is infinite. -/
def fdiv (a b : F32) : F32 :=
  let neg := fSign a != fSign b
  if isNaN a || isNaN b then nanOf .div a b
  else if isInf a then
    if isInf b then nanOf .div a b else mkF32 neg infBits
  else if isInf b then mkF32 neg 0
  else if fMag b = 0 then
    if fMag a = 0 then nanOf .div a b else mkF32 neg infBits
  else mkF32 neg (roundMag (fMag a * 2 ^ 149) (fMag b))

/-- The integer square root by bits, from bit `n - 1` down to bit 0: the largest `r + t` with
`t < 2 ^ n` and `(r + t)² ≤ x`. -/
def isqrtFrom (x : Nat) : Nat → Nat → Nat
  | 0, r => r
  | n + 1, r =>
    if (r + 2 ^ n) * (r + 2 ^ n) ≤ x then isqrtFrom x n (r + 2 ^ n) else isqrtFrom x n r

/-- The integer square root of a number below 2^428. -/
def isqrt (x : Nat) : Nat := isqrtFrom x 214 0

/-- The magnitude bits of the square root of `m` units of 2^-149. The root is at least 2^74 units, so a
half bit for a non-zero remainder decides the rounding. -/
def sqrtMag (m : Nat) : Nat :=
  let x := m * 2 ^ 149
  let n := isqrt x
  roundMag (2 * n + if n * n = x then 0 else 1) 2

/-- `fsqrt(a)` (R11): of ±0 the operand itself, of a negative value a NaN. -/
def fsqrt (a : F32) : F32 :=
  if isNaN a then nanOf .sqrt a a
  else if fMag a = 0 then a
  else if fSign a then nanOf .sqrt a a
  else if isInf a then a
  else mkF32 false (sqrtMag (fMag a))

/-- `flt(a, b)`, false if either operand is a NaN (R11). -/
def flt (a b : F32) : Bool := !isNaN a && !isNaN b && decide (fVal a < fVal b)

/-- `fle(a, b)`, false if either operand is a NaN (R11). -/
def fle (a b : F32) : Bool := !isNaN a && !isNaN b && decide (fVal a ≤ fVal b)

/-- `i2f(n)`: the nearest binary32 of an integer (R11). -/
def i2f (n : Int) : F32 := ofExact (n * 2 ^ 149)

end Sys2Proof.Machine
end

