-- ==== Sys2Proof/Machine/Operands.lean ====
section
/-! DEFINITION. The operands of the write packets: which bits of DATA each register takes (30_encoding.md
R84) and which values are legal (40_host_access.md R110 to R115). -/

namespace Sys2Proof.Machine

/-- CONFIG takes GYRO_FS = DATA[1:0], ACCEL_FS = DATA[3:2], IRQ_EN = DATA[4] and ignores DATA[31:5] (R84, R109). -/
def configOfData (data : Word) : ConfigReg :=
  { gyroFs := data.extractLsb' 0 2, accelFs := data.extractLsb' 2 2, irqEn := data.getLsbD 4 }

/-- RETRY_MAX takes DATA[7:0] (R84, R110). -/
def retryMaxOfData (data : Word) : BitVec 8 := data.extractLsb' 0 8

/-- CAL_N takes DATA[15:0] (R84, R111). -/
def calNOfData (data : Word) : BitVec 16 := data.extractLsb' 0 16

/-- The legal values of ALPHA and BETA: 0.0 ≤ v ≤ 1.0, so neither a NaN nor negative (R112, R113). -/
def legalCoefficient (data : F32) : Bool := fle PZERO data && fle data ONE

/-- The legal values of the stationary thresholds: v ≥ 0.0, so not a NaN (R114, R115). -/
def legalThreshold (data : F32) : Bool := fle PZERO data

end Sys2Proof.Machine
end

