-- ==== Sys2Proof/Machine/Ops.lean ====
section
/-! DEFINITION. The named operations: register reads over the whole register space, the gates of the
writes, the draws, the completion of a command with its result code (the machine's taking of an
exception), and hardware reset. -/

namespace Sys2Proof.Machine

/-- CONFIG as a word, reserved bits 0 (R32, R47). -/
def ConfigReg.word (c : ConfigReg) : Word := 0#27 ++ BitVec.ofBool c.irqEn ++ c.accelFs ++ c.gyroFs

/-- `R[reg]` as the 32-bit word a read returns, reserved bits 0 (R47, R101 to R103). -/
def State.readReg (s : State) : Reg → Word
  | .cmd => 0#32
  | .status => s.statusWord
  | .config => s.config.word
  | .retryMax => s.retryMax.setWidth 32
  | .calN => s.calN.setWidth 32
  | .alpha => s.alpha
  | .beta => s.beta
  | .accStatTh => s.accStatTh
  | .gzStatTh => s.gzStatTh
  | .roll => s.orient.roll
  | .pitch => s.orient.pitch
  | .yaw => s.orient.yaw
  | .yawBias => s.orient.yawBias
  | .tLastLo => s.orient.tLast.extractLsb' 0 32
  | .tLastHi => s.orient.tLast.extractLsb' 32 32
  | .goffX => s.offsets.gyro.x
  | .goffY => s.offsets.gyro.y
  | .goffZ => s.offsets.gyro.z
  | .aoffX => s.offsets.accel.x
  | .aoffY => s.offsets.accel.y
  | .aoffZ => s.offsets.accel.z
  | .id => Config.idValue

/-- The read packet's response reaches the host (R80); nothing else changes (R64). -/
def State.respond (s : State) (v : Word) : State := { s with env := { s.env with lastRead := some v } }

/-- A CMD write is rejected while BUSY = 1 (R105, R206 (1)); otherwise it goes on. -/
def State.gateCmd (s : State) (go : State → State) : State := if s.busy then s.rejectCmd else go s

/-- The configuration write gate and then the value check (R107, R207). -/
def State.gateConfig (s : State) (legal : Bool) (store : State → State) : State :=
  if s.busy then s.rejectWrite
  else if legal then store s
  else s.rejectWrite

/-- The result codes of a command (R200); 5 to 7 are reserved and never written. -/
inductive ResultCode where
  | ok
  | gyroRetryExhausted
  | accelRetryExhausted
  | notCalibrated
  | numeric
  deriving DecidableEq, Repr

/-- The number of a result code in STATUS.ERR (R28, R200). -/
def ResultCode.toErr : ResultCode → BitVec 3
  | .ok => 0#3
  | .gyroRetryExhausted => 1#3
  | .accelRetryExhausted => 2#3
  | .notCalibrated => 3#3
  | .numeric => 4#3

/-- Completion of a command, `complete with code` or `raise CmdError(code)` (R201): ERR <- code, DONE <- 1,
phase <- IDLE, in one step. This is how CFIMU takes an exception: there is no vector and nothing is saved
(R202, R205). -/
def State.complete (s : State) (code : ResultCode) : State :=
  { s with
    status := { s.status with err := code.toErr, done := true }
    seq := { s.seq with phase := .idle } }

/-- The acknowledgement by which the host ends an exception's effect on `irq`: DONE cleared, nothing
restored (R205, R108). -/
def State.acknowledge (s : State) (data : Word) : State := { s with status := s.status.acknowledge data }

/-- `phase <- P` for a phase that reads the sensor: S.attempt is set to 0 (R49). -/
def State.enterRead (s : State) (p : Phase) : State :=
  { s with seq := { s.seq with attempt := 0#8, phase := p } }

/-- The code of an exhausted read (R136). -/
def SensorKind.exhausted : SensorKind → ResultCode
  | .gyro => .gyroRetryExhausted
  | .accel => .accelRetryExhausted

/-- `SensorRead(kind)`: one attempt and its answer (R66); none while the link has not answered (R67). -/
def State.sensorRead (s : State) (kind : SensorKind) : Option (SensorAnswer × State) :=
  match kind with
  | .gyro =>
    match s.env.gyroLink with
    | [] => none
    | r :: rest => some (r, { s with env := { s.env with gyroLink := rest, attempts := .gyro :: s.env.attempts } })
  | .accel =>
    match s.env.accelLink with
    | [] => none
    | r :: rest => some (r, { s with env := { s.env with accelLink := rest, attempts := .accel :: s.env.attempts } })

/-- `Now()`: one sample of the time input (R69); none while the time source has given none. -/
def State.now (s : State) : Option (Time × State) :=
  match s.env.clock with
  | [] => none
  | t :: rest => some (t, { s with env := { s.env with clock := rest } })

/-- A failed attempt: S.attempt counts it, and at RETRY_MAX the command ends with the exhaustion code; no
register changes otherwise (R134, R136). -/
def State.failedAttempt (s : State) (kind : SensorKind) : State :=
  let s' := { s with seq := { s.seq with attempt := s.seq.attempt + 1#8 } }
  if s'.seq.attempt = s'.retryMax then s'.complete kind.exhausted else s'

/-- One step of `ReadTriple(kind)` (R133, R135): the success action takes the triple, `Err` is a failed
attempt. None where the step is not enabled: a draw it needs is not given (R242). -/
def State.readTriple (s : State) (kind : SensorKind) (onOk : Raw → Raw → Raw → State → Option State) :
    Option State :=
  match s.sensorRead kind with
  | none => none
  | some (.err, s') => some (s'.failedAttempt kind)
  | some (.ok x y z, s') => onOk x y z s'

/-- Hardware reset (R230): every register and every internal variable at its reset value in one step. The
agents around the block are outside it and keep what they hold (R231, R232, log 5). -/
def State.hardwareReset (s : State) : State := { State.reset with env := s.env }

end Sys2Proof.Machine
end

