-- ==== Sys2Proof/Machine/Conversion.lean ====
section
/-! DEFINITION. Conversion of raw readings to physical units (41_calibrate.md R130 to R132). -/

namespace Sys2Proof.Machine

/-- `ConvGyro(raw, fs) = fdiv(i2f(sext_32(raw)), GYRO_SCALE[fs])`, deg/s (R130). -/
def convGyro (raw : Raw) (fs : BitVec 2) : F32 := fdiv (i2f raw.toInt) (Config.gyroScale fs)

/-- `ConvAccel(raw, fs) = fdiv(i2f(sext_32(raw)), ACCEL_SCALE[fs])`, g (R131). -/
def convAccel (raw : Raw) (fs : BitVec 2) : F32 := fdiv (i2f raw.toInt) (Config.accelScale fs)

/-- A triple of gyro readings in deg/s (R130). -/
def State.gyroTriple (s : State) (x y z : Raw) : Vec3 :=
  { x := convGyro x s.config.gyroFs, y := convGyro y s.config.gyroFs, z := convGyro z s.config.gyroFs }

/-- A triple of accelerometer readings in g (R131). -/
def State.accelTriple (s : State) (x y z : Raw) : Vec3 :=
  { x := convAccel x s.config.accelFs, y := convAccel y s.config.accelFs, z := convAccel z s.config.accelFs }

/-- Axis by axis (R132, R139, R140, R142). -/
def Vec3.map2 (op : F32 → F32 → F32) (a b : Vec3) : Vec3 :=
  { x := op a.x b.x, y := op a.y b.y, z := op a.z b.z }

/-- `CalGyro(x, y, z)`: converted, then offset-corrected (R132). -/
def State.calGyro (s : State) (x y z : Raw) : Vec3 := Vec3.map2 fsub (s.gyroTriple x y z) s.offsets.gyro

/-- `CalAccel(x, y, z)`: converted, then offset-corrected (R132). -/
def State.calAccel (s : State) (x y z : Raw) : Vec3 := Vec3.map2 fsub (s.accelTriple x y z) s.offsets.accel

end Sys2Proof.Machine
end

