-- ==== Sys2Proof/Machine/Calibrate.lean ====
section
/-! DEFINITION. CALIBRATE: its acceptance and its block steps (41_calibrate.md R137 to R144). -/

namespace Sys2Proof.Machine

/-- Acceptance of CALIBRATE (R138). -/
def State.acceptCalibrate (s : State) : State :=
  { s with
    status := s.status.accept 1#2
    seq := { s.seq with
      phase := .calGyro, attempt := 0#8, sampleIdx := 0#16, gsum := Vec3.zero, asum := Vec3.zero } }

/-- The success action of phase CAL_GYRO: the converted readings are added to the sums (R139). -/
def State.addGyroSample (s : State) (x y z : Raw) : State :=
  { s with
    seq := { s.seq with
      gsum := Vec3.map2 fadd s.seq.gsum (s.gyroTriple x y z), attempt := 0#8, phase := .calAccel } }

/-- The converted accelerometer readings less the gravity vector (0, 0, +1.0 g) (R140). -/
def State.accelLessGravity (s : State) (x y z : Raw) : Vec3 :=
  let a := s.accelTriple x y z
  { a with z := fsub a.z G1 }

/-- The sums and the sample count after an accelerometer reading (R140). -/
def State.addAccelSample (s : State) (x y z : Raw) : State :=
  { s with
    seq := { s.seq with
      asum := Vec3.map2 fadd s.seq.asum (s.accelLessGravity x y z), sampleIdx := s.seq.sampleIdx + 1#16 } }

/-- The success action of phase CAL_ACCEL: on to CAL_FINISH after sample CAL_N, else the time is marked and
the delay begins (R140). -/
def State.endSample (s : State) (x y z : Raw) : Option State :=
  let s' := s.addAccelSample x y z
  if s'.seq.sampleIdx = s'.calN then some { s' with seq := { s'.seq with phase := .calFinish } }
  else
    match s'.now with
    | none => none
    | some (t, s'') => some { s'' with seq := { s''.seq with tMark := t, phase := .calDelay } }

/-- Step in phase CAL_GYRO (R139). -/
def State.stepCalGyro (s : State) : Option State :=
  s.readTriple .gyro fun x y z s' => some (s'.addGyroSample x y z)

/-- Step in phase CAL_ACCEL (R140). -/
def State.stepCalAccel (s : State) : Option State := s.readTriple .accel fun x y z s' => s'.endSample x y z

/-- The delay is over: `s64(u64(t - S.t_mark)) >= CAL_DELAY` (R141). -/
def delayOver (t mark : Time) : Bool := decide ((Config.calDelay : Int) ≤ (t - mark).toInt)

/-- Step in phase CAL_DELAY (R141). -/
def State.stepCalDelay (s : State) : Option State :=
  match s.now with
  | none => none
  | some (t, s') => some (if delayOver t s'.seq.tMark then s'.enterRead .calGyro else s')

/-- A sum divided by N on each axis (R142). -/
def Vec3.divBy (sum : Vec3) (n : F32) : Vec3 := { x := fdiv sum.x n, y := fdiv sum.y n, z := fdiv sum.z n }

/-- Step in phase CAL_FINISH, the successful completion of CALIBRATE (R142). -/
def State.stepCalFinish (s : State) : State :=
  let n := i2f s.calN.toNat
  { s with
    offsets := { gyro := s.seq.gsum.divBy n, accel := s.seq.asum.divBy n }
    status := { s.status with calValid := true } }.complete .ok

end Sys2Proof.Machine
end

