-- ==== Sys2Proof/Machine/Atan2.lean ====
section
/-! DEFINITION. `ATAN2_F32` (00_scope.md R14): the binary32 nearest to the two-argument arctangent. The
angle is bracketed between two multiples of 2^-P by Euler's series, all of whose terms are positive,

  atan t = Σ T n,  T 0 = t / (1 + t²),  T (n+1) = T n · (2(n+1) / (2n+3)) · t² / (1 + t²)   (0 < t ≤ 1),

and rounded when the whole bracket rounds to one value. No angle of non-zero finite arguments is
rational, so an angle never lies on the border of a cell of width 2^-P (log 10). -/

namespace Sys2Proof.Machine

/-- `π_32` (R14). -/
def piBits : Nat := 0x40490FDB

/-- `π/2_32` (R14). -/
def halfPiBits : Nat := 0x3FC90FDB

/-- Lower and upper bound, in units of 2^-P, of the series of t² / (1 + t²) = `a2 / s2` whose term `n`
is `term` (rounded down) and whose terms up to `n` sum to `acc` (each rounded down). A term is less than
2 below its true value, since each is at most half of the one before; so is the rest of the sum. -/
def atanSeries (a2 s2 : Nat) : Nat → Nat → Nat → Nat → Nat × Nat
  | 0, n, term, acc => (acc, acc + 2 * (n + 1) + term + 2)
  | fuel + 1, n, term, acc =>
    if term = 0 then (acc, acc + 2 * (n + 1) + 2)
    else
      let next := term * (2 * (n + 1) * a2) / ((2 * n + 3) * s2)
      atanSeries a2 s2 fuel (n + 1) next (acc + next)

/-- Bounds of atan (a / b), 0 < a ≤ b, in units of 2^-P. -/
def atanBounds (P a b : Nat) : Nat × Nat :=
  let s2 := a * a + b * b
  let first := 2 ^ P * (a * b) / s2
  atanSeries (a * a) s2 P 0 first first

/-- Bounds of π/2 = 2 (atan 1/2 + atan 1/3) in units of 2^-P. -/
def halfPiBounds (P : Nat) : Nat × Nat :=
  match atanBounds P 1 2, atanBounds P 1 3 with
  | (l2, u2), (l3, u3) => (2 * (l2 + l3), 2 * (u2 + u3))

/-- Bounds of the angle of the point with ordinate `Y > 0` and abscissa `X > 0`, or `-X` where `xneg`. -/
def angleBounds (P Y X : Nat) (xneg : Bool) : Nat × Nat :=
  match halfPiBounds P with
  | (h0, h1) =>
    if Y ≤ X then
      match atanBounds P Y X with
      | (l, u) => if xneg then (2 * h0 - u, 2 * h1 - l) else (l, u)
    else
      match atanBounds P X Y with
      | (l, u) => if xneg then (h0 + l, h1 + u) else (h0 - u, h1 - l)

/-- The magnitude bits of the values strictly between `n` and `n + 1` units of 2^-P (150 ≤ P, so that no
value half way between two neighbours lies inside the cell). -/
def roundCell (P n : Nat) : Nat := roundMag (2 * n + 1) (2 ^ (P - 148))

/-- The angle rounded at precision P, if the whole bracket rounds to one value. -/
def angleAt (P Y X : Nat) (xneg : Bool) : Option Nat :=
  match angleBounds P Y X xneg with
  | (l, u) =>
    if roundCell P l = roundCell P (u - 1) then some (roundCell P l) else none

/-- The first of the precisions at which the rounding is settled. -/
def angleBits : List Nat → Nat → Nat → Bool → Option Nat
  | [], _, _, _ => none
  | P :: rest, Y, X, xneg =>
    match angleAt P Y X xneg with
    | some r => some r
    | none => angleBits rest Y X xneg

/-- The precisions tried (log 10). -/
def atan2Precisions : List Nat := [192, 320, 512, 1024]

/-- The magnitude of `ATAN2_F32` of an ordinate with magnitude bits `yb`: the special cases of R14, then
the rounded angle; free where R14 states no result or no precision settles it (log 10). -/
def atan2Mag (yb : Nat) (x : F32) : Nat :=
  if infBits ≤ yb ∨ isFinite x = false then fBits (Config.atan2Free (mkF32 false yb) x)
  else if magOfBits yb = 0 then (if fSign x then piBits else 0)
  else if fMag x = 0 then halfPiBits
  else
    match angleBits atan2Precisions (magOfBits yb) (fMag x) (fSign x) with
    | some r => r
    | none => fBits (Config.atan2Free (mkF32 false yb) x)

/-- `ATAN2_F32(y, x)` (R14): odd in y, at most `π_32` in magnitude (an angle never exceeds π, so the bound
changes no rounded angle). -/
def atan2F32 (y x : F32) : F32 := mkF32 (fSign y) (min (atan2Mag (fBits y) x) piBits)

end Sys2Proof.Machine
end

