-- ==== Sys2Proof/Machine/Update.lean ====
section
/-! DEFINITION. UPDATE: the wrap, the numeric steps of one update, its acceptance and its block steps
(42_update.md R160 to R177). -/

namespace Sys2Proof.Machine

/-- The two limits of `Wrap` (R160). -/
inductive WrapLimit where
  | l180
  | l90
  deriving DecidableEq, Repr

/-- The limit as binary32 (R12). -/
def WrapLimit.toF32 : WrapLimit → F32
  | .l180 => L180
  | .l90 => L90

/-- The limit in degrees. -/
def WrapLimit.degrees : WrapLimit → Int
  | .l180 => 180
  | .l90 => 90

/-- The fold of an exact value outside [-l, l]: the least k ≥ 1 turns of 2 l that bring it back (R160). -/
def foldExact (v l : Int) : Int :=
  if l < v then v - 2 * l * ((v - l + (2 * l - 1)) / (2 * l))
  else v + 2 * l * ((-v - l + (2 * l - 1)) / (2 * l))

/-- `Wrap(a, L)`: none is `raise CmdError(NUMERIC)`, on a NaN or ±infinity (R160, R177). -/
def wrap (L : WrapLimit) (a : F32) : Option F32 :=
  if !isFinite a then none
  else if fle (fneg L.toF32) a && fle a L.toF32 then some a
  else some (ofExact (foldExact (fVal a) (L.degrees * 2 ^ 149)))

/-- `s <- MINUS_ONE if flt(az, PZERO) else ONE` (R162). -/
def orientationSign (az : F32) : F32 := if flt az PZERO then MINUS_ONE else ONE

/-- `fsqrt(fadd(fmul(a, a), fmul(b, b)))` (R163, R164). -/
def hypotenuse (a b : F32) : F32 := fsqrt (fadd (fmul a a) (fmul b b))

/-- Accelerometer roll angle in degrees (R163). -/
def accAngleX (a : Vec3) : F32 :=
  fmul (atan2F32 a.y (fmul (orientationSign a.z) (hypotenuse a.z a.x))) Config.radToDeg

/-- Accelerometer pitch angle in degrees (R164). -/
def accAngleY (a : Vec3) : F32 := fmul (fneg (atan2F32 a.x (hypotenuse a.z a.y))) Config.radToDeg

/-- Elapsed time in seconds; none is `dtpos = false`: no previous update, or a difference that is not
positive (R165). -/
def elapsed (tValid : Bool) (tLast tNow : Time) : Option F32 :=
  if tValid && decide (0 < (tNow - tLast).toInt) then some (fdiv (i2f (tNow - tLast).toInt) (i2f Config.timeHz))
  else none

/-- `fadd(prev, fmul(rate, dt)) if dtpos else prev` (R166, R167, R170). -/
def integrate (prev rate : F32) : Option F32 → F32
  | some dt => fadd prev (fmul rate dt)
  | none => prev

/-- The complementary blend: the integrated angle is wrapped into the accelerometer's reference, blended
and wrapped again (R166, R167). -/
def fuse (L : WrapLimit) (alpha gint acc : F32) : Option F32 :=
  match wrap L (fsub gint acc) with
  | none => none
  | some w => wrap L (fadd (fmul alpha (fadd acc w)) (fmul (fsub ONE alpha) acc))

/-- Magnitude of the calibrated accelerometer triple (R168). -/
def accMagnitude (a : Vec3) : F32 := fsqrt (fadd (fadd (fmul a.x a.x) (fmul a.y a.y)) (fmul a.z a.z))

/-- Stationary detection, both comparisons strict (R168). -/
def stationary (a : Vec3) (gz accTh gzTh : F32) : Bool :=
  flt (fabs (fsub (accMagnitude a) ONE)) accTh && flt (fabs gz) gzTh

/-- Yaw-bias EMA (R169). -/
def newBias (isStationary : Bool) (beta bias gz : F32) : F32 :=
  if isStationary then fadd (fmul (fsub ONE beta) bias) (fmul beta gz) else bias

/-- The whole computation of one update from the calibrated triples and the time (R162 to R170): the new
OrientationState, or none where a `Wrap` raised NUMERIC. -/
def State.estimate (s : State) (a g : Vec3) (tNow : Time) : Option Orientation :=
  let o := s.orient
  let dt := elapsed s.status.tValid o.tLast tNow
  let roll := fuse .l180 s.alpha (integrate o.roll g.x dt) (accAngleX a)
  let pitch := fuse .l90 s.alpha (integrate o.pitch (fmul (orientationSign a.z) g.y) dt) (accAngleY a)
  let bias := newBias (stationary a g.z s.accStatTh s.gzStatTh) s.beta o.yawBias g.z
  let yaw := integrate o.yaw (fsub g.z bias) dt
  match roll, pitch with
  | some r, some p => some { roll := r, pitch := p, yaw := yaw, yawBias := bias, tLast := tNow }
  | _, _ => none

/-- Commit of a successful update, one atomic step (R171). -/
def State.commit (s : State) (o : Orientation) : State :=
  { s with orient := o, status := { s.status with tValid := true } }.complete .ok

/-- Acceptance of UPDATE; while CAL_VALID = 0 it completes in this same step with NOT_CALIBRATED (R173). -/
def State.acceptUpdate (s : State) : State :=
  let s' := { s with status := s.status.accept 2#2 }
  if s'.status.calValid then s'.enterRead .updAccel else s'.complete .notCalibrated

/-- Step in phase UPD_ACCEL (R174). -/
def State.stepUpdAccel (s : State) : Option State :=
  s.readTriple .accel fun x y z s' =>
    some ({ s' with seq := { s'.seq with acal := s'.calAccel x y z } }.enterRead .updGyro)

/-- The success action of phase UPD_GYRO: the time is sampled, the update computed, and committed or ended
with NUMERIC (R175, R177). -/
def State.finishUpdate (s : State) (x y z : Raw) : Option State :=
  match s.now with
  | none => none
  | some (t, s') =>
    match s'.estimate s'.seq.acal (s'.calGyro x y z) t with
    | some o => some (s'.commit o)
    | none => some (s'.complete .numeric)

/-- Step in phase UPD_GYRO (R175). -/
def State.stepUpdGyro (s : State) : Option State := s.readTriple .gyro fun x y z s' => s'.finishUpdate x y z

end Sys2Proof.Machine
end

