-- ==== Sys2Proof/Machine/Block.lean ====
section
/-! DEFINITION. The block step (00_scope.md R8; 10_state.md R48): one per phase. -/

namespace Sys2Proof.Machine

/-- One block step; none where no block step is enabled: in IDLE (R215), or where a draw that the step
needs is not given (R67, R242). -/
def State.blockAction (s : State) : Option State :=
  match s.seq.phase with
  | .idle => none
  | .calGyro => s.stepCalGyro
  | .calAccel => s.stepCalAccel
  | .calDelay => s.stepCalDelay
  | .calFinish => some s.stepCalFinish
  | .updAccel => s.stepUpdAccel
  | .updGyro => s.stepUpdGyro

/-- The block's turn: its step where one is enabled, else it waits and nothing changes (R67, R215; log 3). -/
def State.blockStep (s : State) : State := s.blockAction.getD s

/-- A stuck state: the block is not IDLE and no step of it is enabled (R242). -/
def State.stuck (s : State) : Bool := s.busy && s.blockAction.isNone

end Sys2Proof.Machine
end

