-- ==== Sys2Proof/Machine/Commands.lean ====
section
/-! DEFINITION. The dispatch of a command word (40_host_access.md R105, R106): the acceptance step of each
command. What an accepted command does from then on are the block steps of Block.lean. -/

namespace Sys2Proof.Machine

/-- NOP: no state changes; rejected while BUSY = 1 (R105, R106). -/
def execNop (s : State) : Host.Outcome State Fault Refusal := .next (s.gateCmd fun s => s)

/-- CALIBRATE: accepted while BUSY = 0 (R105, R137, R138). -/
def execCalibrate (s : State) : Host.Outcome State Fault Refusal := .next (s.gateCmd State.acceptCalibrate)

/-- UPDATE: accepted while BUSY = 0 (R105, R172, R173). -/
def execUpdate (s : State) : Host.Outcome State Fault Refusal := .next (s.gateCmd State.acceptUpdate)

/-- CMD_RESERVED: reserved bits or a reserved opcode, rejected also while BUSY = 0 (R85, R105, R206). -/
def execCmdReserved (_data : Word) (s : State) : Host.Outcome State Fault Refusal := .next (s.gateCmd State.rejectCmd)

end Sys2Proof.Machine
end

