-- ==== Sys2Proof/WellFormed.lean ====
section
/-! DEFINITION. Which terms of `Instr` stand for a packet: the operands of the three rows whose patterns
other rows overlap are those that no other row takes (30_encoding.md R85, R86). -/

namespace Sys2Proof

/-- A command word other than the three accepted ones: RSV non-zero, or OP in `0x03` to `0xFF` (R82, R83, R85). -/
def reservedCommand (data : Word) : Bool :=
  data.extractLsb' 8 24 != 0#24 || decide (3#8 ≤ data.extractLsb' 0 8)

/-- An address outside the map of R61: misaligned (R62), or `0x58` and above. -/
def unmappedAddr (addr : RegAddr) : Bool :=
  addr.extractLsb' 0 2 != 0#2 || decide (0x58#8 ≤ addr)

/-- The check of an instruction's operands. -/
def Instr.wellFormed : Instr → Bool
  | .cmdReserved data => reservedCommand data
  | .rdUnmapped addr => unmappedAddr addr
  | .wrUnmapped addr => unmappedAddr addr
  | .nop => true
  | .calibrate => true
  | .update => true
  | .rdCmd => true
  | .rdStatus => true
  | .rdConfig => true
  | .rdRetryMax => true
  | .rdCalN => true
  | .rdAlpha => true
  | .rdBeta => true
  | .rdAccStatTh => true
  | .rdGzStatTh => true
  | .rdRoll => true
  | .rdPitch => true
  | .rdYaw => true
  | .rdYawBias => true
  | .rdTLastLo => true
  | .rdTLastHi => true
  | .rdGoffX => true
  | .rdGoffY => true
  | .rdGoffZ => true
  | .rdAoffX => true
  | .rdAoffY => true
  | .rdAoffZ => true
  | .rdId => true
  | .wrStatus _ => true
  | .wrConfig _ => true
  | .wrRetryMax _ => true
  | .wrCalN _ => true
  | .wrAlpha _ => true
  | .wrBeta _ => true
  | .wrAccStatTh _ => true
  | .wrGzStatTh _ => true
  | .wrRoll => true
  | .wrPitch => true
  | .wrYaw => true
  | .wrYawBias => true
  | .wrTLastLo => true
  | .wrTLastHi => true
  | .wrGoffX => true
  | .wrGoffY => true
  | .wrGoffZ => true
  | .wrAoffX => true
  | .wrAoffY => true
  | .wrAoffZ => true
  | .wrId => true

end Sys2Proof
end

