-- ==== Sys2Proof/Decode.lean ====
section
/-! DEFINITION. Decoding of the 41-bit packet, total by R85, and its encoder, both from 30_encoding.md
R80 to R89 and the address map 20_memory.md R61. -/

namespace Sys2Proof

/-- The byte address of a register (R61). -/
def Reg.addr : Reg → RegAddr
  | .cmd => 0x00#8
  | .status => 0x04#8
  | .config => 0x08#8
  | .retryMax => 0x0C#8
  | .calN => 0x10#8
  | .alpha => 0x14#8
  | .beta => 0x18#8
  | .accStatTh => 0x1C#8
  | .gzStatTh => 0x20#8
  | .roll => 0x24#8
  | .pitch => 0x28#8
  | .yaw => 0x2C#8
  | .yawBias => 0x30#8
  | .tLastLo => 0x34#8
  | .tLastHi => 0x38#8
  | .goffX => 0x3C#8
  | .goffY => 0x40#8
  | .goffZ => 0x44#8
  | .aoffX => 0x48#8
  | .aoffY => 0x4C#8
  | .aoffZ => 0x50#8
  | .id => 0x54#8

/-- The register at an address: none where the address is misaligned or unmapped (R61, R62). -/
def Reg.ofAddr (addr : RegAddr) : Option Reg :=
  match addr with
  | 0x00#8 => some .cmd
  | 0x04#8 => some .status
  | 0x08#8 => some .config
  | 0x0C#8 => some .retryMax
  | 0x10#8 => some .calN
  | 0x14#8 => some .alpha
  | 0x18#8 => some .beta
  | 0x1C#8 => some .accStatTh
  | 0x20#8 => some .gzStatTh
  | 0x24#8 => some .roll
  | 0x28#8 => some .pitch
  | 0x2C#8 => some .yaw
  | 0x30#8 => some .yawBias
  | 0x34#8 => some .tLastLo
  | 0x38#8 => some .tLastHi
  | 0x3C#8 => some .goffX
  | 0x40#8 => some .goffY
  | 0x44#8 => some .goffZ
  | 0x48#8 => some .aoffX
  | 0x4C#8 => some .aoffY
  | 0x50#8 => some .aoffZ
  | 0x54#8 => some .id
  | _ => none

/-- WE, bit 40 of a packet (R80). -/
def packetWe (p : Packet) : Bool := p.getLsbD 40

/-- ADDR, bits 39:32 of a packet (R80). -/
def packetAddr (p : Packet) : RegAddr := p.extractLsb' 32 8

/-- DATA, bits 31:0 of a packet (R80). -/
def packetData (p : Packet) : Word := p.extractLsb' 0 32

/-- A read packet, decoded by ADDR alone (R81, R86). -/
def decodeRead (addr : RegAddr) : Instr :=
  match Reg.ofAddr addr with
  | some .cmd => .rdCmd
  | some .status => .rdStatus
  | some .config => .rdConfig
  | some .retryMax => .rdRetryMax
  | some .calN => .rdCalN
  | some .alpha => .rdAlpha
  | some .beta => .rdBeta
  | some .accStatTh => .rdAccStatTh
  | some .gzStatTh => .rdGzStatTh
  | some .roll => .rdRoll
  | some .pitch => .rdPitch
  | some .yaw => .rdYaw
  | some .yawBias => .rdYawBias
  | some .tLastLo => .rdTLastLo
  | some .tLastHi => .rdTLastHi
  | some .goffX => .rdGoffX
  | some .goffY => .rdGoffY
  | some .goffZ => .rdGoffZ
  | some .aoffX => .rdAoffX
  | some .aoffY => .rdAoffY
  | some .aoffZ => .rdAoffZ
  | some .id => .rdId
  | none => .rdUnmapped addr

/-- A command word (R82, R83): the three commands first, then CMD_RESERVED (R86). -/
def decodeCommand (data : Word) : Instr :=
  match data with
  | 0#32 => .nop
  | 1#32 => .calibrate
  | 2#32 => .update
  | _ => .cmdReserved data

/-- A write packet (R84 to R86). -/
def decodeWrite (addr : RegAddr) (data : Word) : Instr :=
  match Reg.ofAddr addr with
  | some .cmd => decodeCommand data
  | some .status => .wrStatus data
  | some .config => .wrConfig data
  | some .retryMax => .wrRetryMax data
  | some .calN => .wrCalN data
  | some .alpha => .wrAlpha data
  | some .beta => .wrBeta data
  | some .accStatTh => .wrAccStatTh data
  | some .gzStatTh => .wrGzStatTh data
  | some .roll => .wrRoll
  | some .pitch => .wrPitch
  | some .yaw => .wrYaw
  | some .yawBias => .wrYawBias
  | some .tLastLo => .wrTLastLo
  | some .tLastHi => .wrTLastHi
  | some .goffX => .wrGoffX
  | some .goffY => .wrGoffY
  | some .goffZ => .wrGoffZ
  | some .aoffX => .wrAoffX
  | some .aoffY => .wrAoffY
  | some .aoffZ => .wrAoffZ
  | some .id => .wrId
  | none => .wrUnmapped addr

/-- Every 41-bit packet decodes to exactly one instruction (R85, R100). -/
def decode (p : Packet) : Instr :=
  if packetWe p then decodeWrite (packetAddr p) (packetData p) else decodeRead (packetAddr p)

/-- Why a number is no packet. -/
inductive DecodeRefusal where
  /-- A bit above bit 40 is set: R80 gives a packet 41 bits and no more. Safe: no such packet exists. -/
  | bitsAbovePacket
  deriving DecidableEq, Repr

/-- Decoding of any number: a packet where it has at most 41 bits, refused by name otherwise (log 14). -/
def decodeNat (w : Nat) : Except DecodeRefusal Instr :=
  if w < 2 ^ 41 then .ok (decode (BitVec.ofNat 41 w)) else .error .bitsAbovePacket

/-- The instruction the decoder reads from the `nbits` low bits of `w`, numbered as the opcode table
numbers them: bit 0 is bit 0 of the packet (R9, R80). -/
def decodeTableWord (nbits w : Nat) : Option Instr :=
  match decodeNat (w % 2 ^ nbits) with
  | .ok i => some i
  | .error _ => none

/-- `packet = (WE << 40) | (ADDR << 32) | DATA` (R89). -/
def packet (we : Bool) (addr : RegAddr) (data : Word) : Packet :=
  BitVec.ofBool we ++ addr ++ data

/-- A read packet, its ignored DATA written as 0 (R81, R87). -/
def readPacket (r : Reg) : Packet := packet false r.addr 0#32

/-- A write packet (R87). -/
def writePacket (r : Reg) (data : Word) : Packet := packet true r.addr data

/-- The packet of an instruction (R83, R88, R89); an ignored DATA field is written as 0. -/
def encode : Instr → Packet
  | .nop => writePacket .cmd 0#32
  | .calibrate => writePacket .cmd 1#32
  | .update => writePacket .cmd 2#32
  | .rdCmd => readPacket .cmd
  | .rdStatus => readPacket .status
  | .rdConfig => readPacket .config
  | .rdRetryMax => readPacket .retryMax
  | .rdCalN => readPacket .calN
  | .rdAlpha => readPacket .alpha
  | .rdBeta => readPacket .beta
  | .rdAccStatTh => readPacket .accStatTh
  | .rdGzStatTh => readPacket .gzStatTh
  | .rdRoll => readPacket .roll
  | .rdPitch => readPacket .pitch
  | .rdYaw => readPacket .yaw
  | .rdYawBias => readPacket .yawBias
  | .rdTLastLo => readPacket .tLastLo
  | .rdTLastHi => readPacket .tLastHi
  | .rdGoffX => readPacket .goffX
  | .rdGoffY => readPacket .goffY
  | .rdGoffZ => readPacket .goffZ
  | .rdAoffX => readPacket .aoffX
  | .rdAoffY => readPacket .aoffY
  | .rdAoffZ => readPacket .aoffZ
  | .rdId => readPacket .id
  | .wrStatus data => writePacket .status data
  | .wrConfig data => writePacket .config data
  | .wrRetryMax data => writePacket .retryMax data
  | .wrCalN data => writePacket .calN data
  | .wrAlpha data => writePacket .alpha data
  | .wrBeta data => writePacket .beta data
  | .wrAccStatTh data => writePacket .accStatTh data
  | .wrGzStatTh data => writePacket .gzStatTh data
  | .wrRoll => writePacket .roll 0#32
  | .wrPitch => writePacket .pitch 0#32
  | .wrYaw => writePacket .yaw 0#32
  | .wrYawBias => writePacket .yawBias 0#32
  | .wrTLastLo => writePacket .tLastLo 0#32
  | .wrTLastHi => writePacket .tLastHi 0#32
  | .wrGoffX => writePacket .goffX 0#32
  | .wrGoffY => writePacket .goffY 0#32
  | .wrGoffZ => writePacket .goffZ 0#32
  | .wrAoffX => writePacket .aoffX 0#32
  | .wrAoffY => writePacket .aoffY 0#32
  | .wrAoffZ => writePacket .aoffZ 0#32
  | .wrId => writePacket .id 0#32
  | .cmdReserved data => writePacket .cmd data
  | .rdUnmapped addr => packet false addr 0#32
  | .wrUnmapped addr => packet true addr 0#32

/-- One row of the opcode table: a packet matches it when it agrees with `pat` on the bits of `mask`. -/
structure OpcodeRow where
  mnemonic : String
  pat : Packet
  mask : Packet
  deriving DecidableEq, Repr

/-- The match of spec/opcode_table.json. -/
def OpcodeRow.matches (row : OpcodeRow) (p : Packet) : Bool := p &&& row.mask == row.pat

/-- The rows of spec/opcode_table.json in the order in which R86 decodes: the three command rows, the rows
that name one register address, CMD_RESERVED, the two catch-alls. -/
def opcodeRows : List OpcodeRow :=
  [⟨"NOP", 0x10000000000#41, 0x1FFFFFFFFFF#41⟩,
   ⟨"CALIBRATE", 0x10000000001#41, 0x1FFFFFFFFFF#41⟩,
   ⟨"UPDATE", 0x10000000002#41, 0x1FFFFFFFFFF#41⟩,
   ⟨"RD_CMD", 0x00000000000#41, 0x1FF00000000#41⟩,
   ⟨"RD_STATUS", 0x00400000000#41, 0x1FF00000000#41⟩,
   ⟨"RD_CONFIG", 0x00800000000#41, 0x1FF00000000#41⟩,
   ⟨"RD_RETRY_MAX", 0x00C00000000#41, 0x1FF00000000#41⟩,
   ⟨"RD_CAL_N", 0x01000000000#41, 0x1FF00000000#41⟩] ++
  [⟨"RD_ALPHA", 0x01400000000#41, 0x1FF00000000#41⟩,
   ⟨"RD_BETA", 0x01800000000#41, 0x1FF00000000#41⟩,
   ⟨"RD_ACC_STAT_TH", 0x01C00000000#41, 0x1FF00000000#41⟩,
   ⟨"RD_GZ_STAT_TH", 0x02000000000#41, 0x1FF00000000#41⟩,
   ⟨"RD_ROLL", 0x02400000000#41, 0x1FF00000000#41⟩,
   ⟨"RD_PITCH", 0x02800000000#41, 0x1FF00000000#41⟩,
   ⟨"RD_YAW", 0x02C00000000#41, 0x1FF00000000#41⟩,
   ⟨"RD_YAW_BIAS", 0x03000000000#41, 0x1FF00000000#41⟩] ++
  [⟨"RD_T_LAST_LO", 0x03400000000#41, 0x1FF00000000#41⟩,
   ⟨"RD_T_LAST_HI", 0x03800000000#41, 0x1FF00000000#41⟩,
   ⟨"RD_GOFF_X", 0x03C00000000#41, 0x1FF00000000#41⟩,
   ⟨"RD_GOFF_Y", 0x04000000000#41, 0x1FF00000000#41⟩,
   ⟨"RD_GOFF_Z", 0x04400000000#41, 0x1FF00000000#41⟩,
   ⟨"RD_AOFF_X", 0x04800000000#41, 0x1FF00000000#41⟩,
   ⟨"RD_AOFF_Y", 0x04C00000000#41, 0x1FF00000000#41⟩,
   ⟨"RD_AOFF_Z", 0x05000000000#41, 0x1FF00000000#41⟩] ++
  [⟨"RD_ID", 0x05400000000#41, 0x1FF00000000#41⟩,
   ⟨"WR_STATUS", 0x10400000000#41, 0x1FF00000000#41⟩,
   ⟨"WR_CONFIG", 0x10800000000#41, 0x1FF00000000#41⟩,
   ⟨"WR_RETRY_MAX", 0x10C00000000#41, 0x1FF00000000#41⟩,
   ⟨"WR_CAL_N", 0x11000000000#41, 0x1FF00000000#41⟩,
   ⟨"WR_ALPHA", 0x11400000000#41, 0x1FF00000000#41⟩,
   ⟨"WR_BETA", 0x11800000000#41, 0x1FF00000000#41⟩,
   ⟨"WR_ACC_STAT_TH", 0x11C00000000#41, 0x1FF00000000#41⟩] ++
  [⟨"WR_GZ_STAT_TH", 0x12000000000#41, 0x1FF00000000#41⟩,
   ⟨"WR_ROLL", 0x12400000000#41, 0x1FF00000000#41⟩,
   ⟨"WR_PITCH", 0x12800000000#41, 0x1FF00000000#41⟩,
   ⟨"WR_YAW", 0x12C00000000#41, 0x1FF00000000#41⟩,
   ⟨"WR_YAW_BIAS", 0x13000000000#41, 0x1FF00000000#41⟩,
   ⟨"WR_T_LAST_LO", 0x13400000000#41, 0x1FF00000000#41⟩,
   ⟨"WR_T_LAST_HI", 0x13800000000#41, 0x1FF00000000#41⟩,
   ⟨"WR_GOFF_X", 0x13C00000000#41, 0x1FF00000000#41⟩] ++
  [⟨"WR_GOFF_Y", 0x14000000000#41, 0x1FF00000000#41⟩,
   ⟨"WR_GOFF_Z", 0x14400000000#41, 0x1FF00000000#41⟩,
   ⟨"WR_AOFF_X", 0x14800000000#41, 0x1FF00000000#41⟩,
   ⟨"WR_AOFF_Y", 0x14C00000000#41, 0x1FF00000000#41⟩,
   ⟨"WR_AOFF_Z", 0x15000000000#41, 0x1FF00000000#41⟩,
   ⟨"WR_ID", 0x15400000000#41, 0x1FF00000000#41⟩,
   ⟨"CMD_RESERVED", 0x10000000000#41, 0x1FF00000000#41⟩,
   ⟨"RD_UNMAPPED", 0x00000000000#41, 0x10000000000#41⟩] ++
  [⟨"WR_UNMAPPED", 0x10000000000#41, 0x10000000000#41⟩]

/-- The mnemonic of an instruction in spec/opcode_table.json. -/
def Instr.mnemonic : Instr → String
  | .nop => "NOP"
  | .calibrate => "CALIBRATE"
  | .update => "UPDATE"
  | .rdCmd => "RD_CMD"
  | .rdStatus => "RD_STATUS"
  | .rdConfig => "RD_CONFIG"
  | .rdRetryMax => "RD_RETRY_MAX"
  | .rdCalN => "RD_CAL_N"
  | .rdAlpha => "RD_ALPHA"
  | .rdBeta => "RD_BETA"
  | .rdAccStatTh => "RD_ACC_STAT_TH"
  | .rdGzStatTh => "RD_GZ_STAT_TH"
  | .rdRoll => "RD_ROLL"
  | .rdPitch => "RD_PITCH"
  | .rdYaw => "RD_YAW"
  | .rdYawBias => "RD_YAW_BIAS"
  | .rdTLastLo => "RD_T_LAST_LO"
  | .rdTLastHi => "RD_T_LAST_HI"
  | .rdGoffX => "RD_GOFF_X"
  | .rdGoffY => "RD_GOFF_Y"
  | .rdGoffZ => "RD_GOFF_Z"
  | .rdAoffX => "RD_AOFF_X"
  | .rdAoffY => "RD_AOFF_Y"
  | .rdAoffZ => "RD_AOFF_Z"
  | .rdId => "RD_ID"
  | .wrStatus _ => "WR_STATUS"
  | .wrConfig _ => "WR_CONFIG"
  | .wrRetryMax _ => "WR_RETRY_MAX"
  | .wrCalN _ => "WR_CAL_N"
  | .wrAlpha _ => "WR_ALPHA"
  | .wrBeta _ => "WR_BETA"
  | .wrAccStatTh _ => "WR_ACC_STAT_TH"
  | .wrGzStatTh _ => "WR_GZ_STAT_TH"
  | .wrRoll => "WR_ROLL"
  | .wrPitch => "WR_PITCH"
  | .wrYaw => "WR_YAW"
  | .wrYawBias => "WR_YAW_BIAS"
  | .wrTLastLo => "WR_T_LAST_LO"
  | .wrTLastHi => "WR_T_LAST_HI"
  | .wrGoffX => "WR_GOFF_X"
  | .wrGoffY => "WR_GOFF_Y"
  | .wrGoffZ => "WR_GOFF_Z"
  | .wrAoffX => "WR_AOFF_X"
  | .wrAoffY => "WR_AOFF_Y"
  | .wrAoffZ => "WR_AOFF_Z"
  | .wrId => "WR_ID"
  | .cmdReserved _ => "CMD_RESERVED"
  | .rdUnmapped _ => "RD_UNMAPPED"
  | .wrUnmapped _ => "WR_UNMAPPED"

end Sys2Proof
end

