-- ==== Sys2Proof/Machine/Reads.lean ====
section
/-! DEFINITION. The read transactions (40_host_access.md R101 to R104) and `MemRead` over the whole register
space (20_memory.md R60 to R64). -/

namespace Sys2Proof.Machine

/-- `MemRead(addr, 4)`: the register at a mapped aligned address, 0 at every other (R61, R62, R104). -/
def State.memRead (s : State) (addr : RegAddr) : Word :=
  match Reg.ofAddr addr with
  | some r => s.readReg r
  | none => 0#32

/-- RD_CMD (R102). -/
def execRdCmd (s : State) : Host.Outcome State Fault Refusal := .next (s.respond (s.readReg .cmd))

/-- RD_STATUS (R101). -/
def execRdStatus (s : State) : Host.Outcome State Fault Refusal := .next (s.respond (s.readReg .status))

/-- RD_CONFIG (R101). -/
def execRdConfig (s : State) : Host.Outcome State Fault Refusal := .next (s.respond (s.readReg .config))

/-- RD_RETRY_MAX (R101). -/
def execRdRetryMax (s : State) : Host.Outcome State Fault Refusal := .next (s.respond (s.readReg .retryMax))

/-- RD_CAL_N (R101). -/
def execRdCalN (s : State) : Host.Outcome State Fault Refusal := .next (s.respond (s.readReg .calN))

/-- RD_ALPHA (R101). -/
def execRdAlpha (s : State) : Host.Outcome State Fault Refusal := .next (s.respond (s.readReg .alpha))

/-- RD_BETA (R101). -/
def execRdBeta (s : State) : Host.Outcome State Fault Refusal := .next (s.respond (s.readReg .beta))

/-- RD_ACC_STAT_TH (R101). -/
def execRdAccStatTh (s : State) : Host.Outcome State Fault Refusal := .next (s.respond (s.readReg .accStatTh))

/-- RD_GZ_STAT_TH (R101). -/
def execRdGzStatTh (s : State) : Host.Outcome State Fault Refusal := .next (s.respond (s.readReg .gzStatTh))

/-- RD_ROLL (R101). -/
def execRdRoll (s : State) : Host.Outcome State Fault Refusal := .next (s.respond (s.readReg .roll))

/-- RD_PITCH (R101). -/
def execRdPitch (s : State) : Host.Outcome State Fault Refusal := .next (s.respond (s.readReg .pitch))

/-- RD_YAW (R101). -/
def execRdYaw (s : State) : Host.Outcome State Fault Refusal := .next (s.respond (s.readReg .yaw))

/-- RD_YAW_BIAS (R101). -/
def execRdYawBias (s : State) : Host.Outcome State Fault Refusal := .next (s.respond (s.readReg .yawBias))

/-- RD_T_LAST_LO (R101). -/
def execRdTLastLo (s : State) : Host.Outcome State Fault Refusal := .next (s.respond (s.readReg .tLastLo))

/-- RD_T_LAST_HI (R101). -/
def execRdTLastHi (s : State) : Host.Outcome State Fault Refusal := .next (s.respond (s.readReg .tLastHi))

/-- RD_GOFF_X (R101). -/
def execRdGoffX (s : State) : Host.Outcome State Fault Refusal := .next (s.respond (s.readReg .goffX))

/-- RD_GOFF_Y (R101). -/
def execRdGoffY (s : State) : Host.Outcome State Fault Refusal := .next (s.respond (s.readReg .goffY))

/-- RD_GOFF_Z (R101). -/
def execRdGoffZ (s : State) : Host.Outcome State Fault Refusal := .next (s.respond (s.readReg .goffZ))

/-- RD_AOFF_X (R101). -/
def execRdAoffX (s : State) : Host.Outcome State Fault Refusal := .next (s.respond (s.readReg .aoffX))

/-- RD_AOFF_Y (R101). -/
def execRdAoffY (s : State) : Host.Outcome State Fault Refusal := .next (s.respond (s.readReg .aoffY))

/-- RD_AOFF_Z (R101). -/
def execRdAoffZ (s : State) : Host.Outcome State Fault Refusal := .next (s.respond (s.readReg .aoffZ))

/-- RD_ID (R103). -/
def execRdId (s : State) : Host.Outcome State Fault Refusal := .next (s.respond (s.readReg .id))

/-- RD_UNMAPPED: an unmapped or misaligned address reads 0 (R104). -/
def execRdUnmapped (_addr : RegAddr) (s : State) : Host.Outcome State Fault Refusal := .next (s.respond 0#32)

end Sys2Proof.Machine
end

