-- ==== Sys2Proof/Machine/Writes.lean ====
section
/-! DEFINITION. The register writes (40_host_access.md R107 to R116). -/

namespace Sys2Proof.Machine

/-- WR_STATUS, accepted also while BUSY = 1 (R108). -/
def execWrStatus (data : Word) (s : State) : Host.Outcome State Fault Refusal := .next (s.acknowledge data)

/-- WR_CONFIG: every value of the fields is legal (R109). -/
def execWrConfig (data : Word) (s : State) : Host.Outcome State Fault Refusal :=
  .next (s.gateConfig true fun s => { s with config := configOfData data })

/-- WR_RETRY_MAX: a ceiling of 0 attempts is illegal (R110). -/
def execWrRetryMax (data : Word) (s : State) : Host.Outcome State Fault Refusal :=
  .next (s.gateConfig (retryMaxOfData data != 0#8) fun s => { s with retryMax := retryMaxOfData data })

/-- WR_CAL_N: N = 0 is illegal (R111). -/
def execWrCalN (data : Word) (s : State) : Host.Outcome State Fault Refusal :=
  .next (s.gateConfig (calNOfData data != 0#16) fun s => { s with calN := calNOfData data })

/-- WR_ALPHA: stored as written if 0 ≤ DATA ≤ 1 (R112). -/
def execWrAlpha (data : Word) (s : State) : Host.Outcome State Fault Refusal :=
  .next (s.gateConfig (legalCoefficient data) fun s => { s with alpha := data })

/-- WR_BETA: stored as written if 0 ≤ DATA ≤ 1 (R113). -/
def execWrBeta (data : Word) (s : State) : Host.Outcome State Fault Refusal :=
  .next (s.gateConfig (legalCoefficient data) fun s => { s with beta := data })

/-- WR_ACC_STAT_TH: stored as written if 0 ≤ DATA (R114). -/
def execWrAccStatTh (data : Word) (s : State) : Host.Outcome State Fault Refusal :=
  .next (s.gateConfig (legalThreshold data) fun s => { s with accStatTh := data })

/-- WR_GZ_STAT_TH: stored as written if 0 ≤ DATA (R115). -/
def execWrGzStatTh (data : Word) (s : State) : Host.Outcome State Fault Refusal :=
  .next (s.gateConfig (legalThreshold data) fun s => { s with gzStatTh := data })

/-- WR_ROLL: read-only, rejected whether BUSY is 0 or 1 (R116). -/
def execWrRoll (s : State) : Host.Outcome State Fault Refusal := .next s.rejectWrite

/-- WR_PITCH: read-only, rejected whether BUSY is 0 or 1 (R116). -/
def execWrPitch (s : State) : Host.Outcome State Fault Refusal := .next s.rejectWrite

/-- WR_YAW: read-only, rejected whether BUSY is 0 or 1 (R116). -/
def execWrYaw (s : State) : Host.Outcome State Fault Refusal := .next s.rejectWrite

/-- WR_YAW_BIAS: read-only, rejected whether BUSY is 0 or 1 (R116). -/
def execWrYawBias (s : State) : Host.Outcome State Fault Refusal := .next s.rejectWrite

/-- WR_T_LAST_LO: read-only, rejected whether BUSY is 0 or 1 (R116). -/
def execWrTLastLo (s : State) : Host.Outcome State Fault Refusal := .next s.rejectWrite

/-- WR_T_LAST_HI: read-only, rejected whether BUSY is 0 or 1 (R116). -/
def execWrTLastHi (s : State) : Host.Outcome State Fault Refusal := .next s.rejectWrite

/-- WR_GOFF_X: read-only, rejected whether BUSY is 0 or 1 (R116). -/
def execWrGoffX (s : State) : Host.Outcome State Fault Refusal := .next s.rejectWrite

/-- WR_GOFF_Y: read-only, rejected whether BUSY is 0 or 1 (R116). -/
def execWrGoffY (s : State) : Host.Outcome State Fault Refusal := .next s.rejectWrite

/-- WR_GOFF_Z: read-only, rejected whether BUSY is 0 or 1 (R116). -/
def execWrGoffZ (s : State) : Host.Outcome State Fault Refusal := .next s.rejectWrite

/-- WR_AOFF_X: read-only, rejected whether BUSY is 0 or 1 (R116). -/
def execWrAoffX (s : State) : Host.Outcome State Fault Refusal := .next s.rejectWrite

/-- WR_AOFF_Y: read-only, rejected whether BUSY is 0 or 1 (R116). -/
def execWrAoffY (s : State) : Host.Outcome State Fault Refusal := .next s.rejectWrite

/-- WR_AOFF_Z: read-only, rejected whether BUSY is 0 or 1 (R116). -/
def execWrAoffZ (s : State) : Host.Outcome State Fault Refusal := .next s.rejectWrite

/-- WR_ID: read-only, rejected whether BUSY is 0 or 1 (R116). -/
def execWrId (s : State) : Host.Outcome State Fault Refusal := .next s.rejectWrite

/-- WR_UNMAPPED: an unmapped or misaligned address, rejected whether BUSY is 0 or 1 (R116). -/
def execWrUnmapped (_addr : RegAddr) (s : State) : Host.Outcome State Fault Refusal := .next s.rejectWrite

end Sys2Proof.Machine
end

