-- ==== Sys2Proof/Machine/Dispatch.lean ====
section
/-! DEFINITION. One arm per instruction: the meaning of every host transaction (40_host_access.md R100). -/

namespace Sys2Proof.Machine

def exec (i : Instr) (s : State) : Host.Outcome State Fault Refusal :=
  match i with
  | .nop => Sys2Proof.Machine.execNop s
  | .calibrate => Sys2Proof.Machine.execCalibrate s
  | .update => Sys2Proof.Machine.execUpdate s
  | .rdCmd => Sys2Proof.Machine.execRdCmd s
  | .rdStatus => Sys2Proof.Machine.execRdStatus s
  | .rdConfig => Sys2Proof.Machine.execRdConfig s
  | .rdRetryMax => Sys2Proof.Machine.execRdRetryMax s
  | .rdCalN => Sys2Proof.Machine.execRdCalN s
  | .rdAlpha => Sys2Proof.Machine.execRdAlpha s
  | .rdBeta => Sys2Proof.Machine.execRdBeta s
  | .rdAccStatTh => Sys2Proof.Machine.execRdAccStatTh s
  | .rdGzStatTh => Sys2Proof.Machine.execRdGzStatTh s
  | .rdRoll => Sys2Proof.Machine.execRdRoll s
  | .rdPitch => Sys2Proof.Machine.execRdPitch s
  | .rdYaw => Sys2Proof.Machine.execRdYaw s
  | .rdYawBias => Sys2Proof.Machine.execRdYawBias s
  | .rdTLastLo => Sys2Proof.Machine.execRdTLastLo s
  | .rdTLastHi => Sys2Proof.Machine.execRdTLastHi s
  | .rdGoffX => Sys2Proof.Machine.execRdGoffX s
  | .rdGoffY => Sys2Proof.Machine.execRdGoffY s
  | .rdGoffZ => Sys2Proof.Machine.execRdGoffZ s
  | .rdAoffX => Sys2Proof.Machine.execRdAoffX s
  | .rdAoffY => Sys2Proof.Machine.execRdAoffY s
  | .rdAoffZ => Sys2Proof.Machine.execRdAoffZ s
  | .rdId => Sys2Proof.Machine.execRdId s
  | .wrStatus data => Sys2Proof.Machine.execWrStatus data s
  | .wrConfig data => Sys2Proof.Machine.execWrConfig data s
  | .wrRetryMax data => Sys2Proof.Machine.execWrRetryMax data s
  | .wrCalN data => Sys2Proof.Machine.execWrCalN data s
  | .wrAlpha data => Sys2Proof.Machine.execWrAlpha data s
  | .wrBeta data => Sys2Proof.Machine.execWrBeta data s
  | .wrAccStatTh data => Sys2Proof.Machine.execWrAccStatTh data s
  | .wrGzStatTh data => Sys2Proof.Machine.execWrGzStatTh data s
  | .wrRoll => Sys2Proof.Machine.execWrRoll s
  | .wrPitch => Sys2Proof.Machine.execWrPitch s
  | .wrYaw => Sys2Proof.Machine.execWrYaw s
  | .wrYawBias => Sys2Proof.Machine.execWrYawBias s
  | .wrTLastLo => Sys2Proof.Machine.execWrTLastLo s
  | .wrTLastHi => Sys2Proof.Machine.execWrTLastHi s
  | .wrGoffX => Sys2Proof.Machine.execWrGoffX s
  | .wrGoffY => Sys2Proof.Machine.execWrGoffY s
  | .wrGoffZ => Sys2Proof.Machine.execWrGoffZ s
  | .wrAoffX => Sys2Proof.Machine.execWrAoffX s
  | .wrAoffY => Sys2Proof.Machine.execWrAoffY s
  | .wrAoffZ => Sys2Proof.Machine.execWrAoffZ s
  | .wrId => Sys2Proof.Machine.execWrId s
  | .cmdReserved data => Sys2Proof.Machine.execCmdReserved data s
  | .rdUnmapped addr => Sys2Proof.Machine.execRdUnmapped addr s
  | .wrUnmapped addr => Sys2Proof.Machine.execWrUnmapped addr s

end Sys2Proof.Machine
end

