-- ==== Sys2Proof/Machine/Step.lean ====
section
/-! DEFINITION. One step of the transition system (00_scope.md R8): the step the schedule lists next. With
nothing listed the block has the turn (log 2). -/

namespace Sys2Proof.Machine

/-- The state without the step that is being taken. -/
def State.withSchedule (s : State) (rest : List Event) : State := { s with env := { s.env with schedule := rest } }

/-- One step: a host transaction, decoded and performed in one atomic step (R100); a block step; or
hardware reset (R8, R230). -/
def step (s : State) : Host.Outcome State Fault Refusal :=
  match s.env.schedule with
  | [] => .next s.blockStep
  | .transact p :: rest => exec (decode p) (s.withSchedule rest)
  | .block :: rest => .next (s.withSchedule rest).blockStep
  | .rst :: rest => .next (s.withSchedule rest).hardwareReset

/-- The host issues the packet with these bits as the next step (log 1): it is put in front of the schedule. -/
def State.withFetchWord (s : State) (nbits w : Nat) : State :=
  s.withSchedule (.transact (BitVec.ofNat 41 (w % 2 ^ nbits)) :: s.env.schedule)

end Sys2Proof.Machine
end

