-- ==== Sys2Proof/Safety.lean ====
section
/-! DEFINITION. The terms in which claims are stated: runs of block steps, the two invariants, the command
CALIBRATE as one function of its samples (41_calibrate.md R137), and roundTiesToEven (00_scope.md R11). -/

namespace Sys2Proof.Machine

/-- `n` turns of the block with no host transaction between them. -/
def State.blockSteps : Nat → State → State
  | 0, s => s
  | n + 1, s => State.blockSteps n s.blockStep

/-- The phases of a running CALIBRATE (R48). -/
def Phase.calibrating : Phase → Bool
  | .calGyro | .calAccel | .calDelay | .calFinish => true
  | .idle | .updAccel | .updGyro => false

/-- The phases of a running UPDATE (R48). -/
def Phase.updating : Phase → Bool
  | .updAccel | .updGyro => true
  | .idle | .calGyro | .calAccel | .calDelay | .calFinish => false

/-- The kind of read a phase makes (R65). -/
def Phase.reads : Phase → Option SensorKind
  | .calGyro | .updGyro => some .gyro
  | .calAccel | .updAccel => some .accel
  | .idle | .calDelay | .calFinish => none

/-- A finite value of at most `bound` in magnitude. -/
def atMost (a : F32) (bound : Nat) : Bool := isFinite a && decide (fMag a ≤ bound * 2 ^ 149)

/-- `atMost` on each axis. -/
def Vec3.atMost (v : Vec3) (bound : Nat) : Bool :=
  Machine.atMost v.x bound && Machine.atMost v.y bound && Machine.atMost v.z bound

/-- What holds of the registers and the sequencer between any two steps, whatever the host, the link and the
time source do. -/
structure Legal (s : State) : Prop where
  /-- R33 -/
  retryMax : s.retryMax ≠ 0#8
  /-- R34 -/
  calN : s.calN ≠ 0#16
  /-- R35 -/
  alpha : legalCoefficient s.alpha = true
  /-- R36 -/
  beta : legalCoefficient s.beta = true
  /-- R37 -/
  accStatTh : legalThreshold s.accStatTh = true
  /-- R38 -/
  gzStatTh : legalThreshold s.gzStatTh = true
  /-- R28: 5 to 7 are never written. -/
  err : s.status.err.toNat ≤ 4
  /-- R31 -/
  lastOp : s.status.lastOp ≠ 3#2
  /-- R39 -/
  roll : atMost s.orient.roll 180 = true
  /-- R40 -/
  pitch : atMost s.orient.pitch 90 = true
  /-- R25, R44, R45: no offset has been written before a calibration completed, and no update has run. -/
  uncalibrated : s.status.calValid = false →
    s.offsets = { gyro := Vec3.zero, accel := Vec3.zero } ∧ s.status.tValid = false
  /-- R26, R39 to R43: the OrientationState is written only by a successful update. -/
  neverUpdated : s.status.tValid = false → s.orient = Orientation.reset
  /-- R27, R28: DONE and ERR were cleared when the running command was accepted. -/
  running : s.busy = true → s.status.done = false ∧ s.status.err = 0#3
  /-- R31 -/
  calibrating : s.seq.phase.calibrating = true → s.status.lastOp = 1#2
  /-- R25, R31 -/
  updating : s.seq.phase.updating = true → s.status.lastOp = 2#2 ∧ s.status.calValid = true
  /-- R49: a read in progress has not reached its ceiling. -/
  attempt : s.seq.phase.reads ≠ none → s.seq.attempt.toNat < s.retryMax.toNat
  /-- R50 -/
  sampleIdx : s.seq.phase = .calGyro ∨ s.seq.phase = .calAccel ∨ s.seq.phase = .calDelay →
    s.seq.sampleIdx.toNat < s.calN.toNat
  /-- R140 -/
  finished : s.seq.phase = .calFinish → s.seq.sampleIdx = s.calN

/-- The bounds under which no arithmetic of CFIMU gives a NaN and no `Wrap` meets a non-finite value
(00_scope.md R13, 42_update.md R177). -/
structure NumericSafe (s : State) : Prop where
  legal : Legal s
  /-- GOFF: an average of readings of at most 2^11 deg/s (R130, R142). -/
  gyroOffsets : s.offsets.gyro.atMost (2 ^ 11) = true
  /-- AOFF: an average of readings of at most 2^5 g (R131, R140, R142). -/
  accelOffsets : s.offsets.accel.atMost (2 ^ 5) = true
  /-- Before the gyro reading of a sample (R139). -/
  gyroSums : s.seq.phase = .calGyro ∨ s.seq.phase = .calDelay ∨ s.seq.phase = .calFinish →
    s.seq.gsum.atMost (2 ^ 11 * s.seq.sampleIdx.toNat) = true
  /-- After it (R139). -/
  gyroSumsAhead : s.seq.phase = .calAccel → s.seq.gsum.atMost (2 ^ 11 * (s.seq.sampleIdx.toNat + 1)) = true
  /-- R140 -/
  accelSums : s.seq.phase.calibrating = true → s.seq.asum.atMost (2 ^ 5 * s.seq.sampleIdx.toNat) = true
  /-- R132, R174 -/
  acal : s.seq.acal.atMost (2 ^ 6) = true
  /-- R169 -/
  yawBias : atMost s.orient.yawBias (2 ^ 14) = true
  /-- R41 -/
  yaw : isNaN s.orient.yaw = false
  /-- R177: NUMERIC is never reported. -/
  notNumeric : s.status.err ≠ 4#3

/-- One calibration sample as the link answers it: `Err` some number of times, then a triple, for the gyro
and then for the accelerometer (R133, R137). -/
structure CalSample where
  gyroErrs : Nat
  gx : Raw
  gy : Raw
  gz : Raw
  accelErrs : Nat
  ax : Raw
  ay : Raw
  az : Raw
  deriving DecidableEq, Repr

/-- The link's answers to the gyro attempts of a sample. -/
def CalSample.gyroAnswers (c : CalSample) : List SensorAnswer :=
  List.replicate c.gyroErrs .err ++ [.ok c.gx c.gy c.gz]

/-- The link's answers to the accelerometer attempts of a sample. -/
def CalSample.accelAnswers (c : CalSample) : List SensorAnswer :=
  List.replicate c.accelErrs .err ++ [.ok c.ax c.ay c.az]

/-- The number of attempts of a sample. -/
def CalSample.attempts (c : CalSample) : Nat := c.gyroErrs + 1 + (c.accelErrs + 1)

/-- The loop of the pseudocode of R137: the sums over the samples in order, from the given ones. -/
def calibrationSums (gyroFs accelFs : BitVec 2) : List CalSample → Vec3 → Vec3 → Vec3 × Vec3
  | [], g, a => (g, a)
  | c :: rest, g, a =>
    calibrationSums gyroFs accelFs rest
      { x := fadd g.x (convGyro c.gx gyroFs)
        y := fadd g.y (convGyro c.gy gyroFs)
        z := fadd g.z (convGyro c.gz gyroFs) }
      { x := fadd a.x (convAccel c.ax accelFs)
        y := fadd a.y (convAccel c.ay accelFs)
        z := fadd a.z (fsub (convAccel c.az accelFs) G1) }

/-- The value of a finite pattern by the fields of R63: sign in bit 31, exponent in 30:23, fraction in 22:0. -/
def ieeeValue (a : F32) : ℚ :=
  let e := (a.extractLsb' 23 8).toNat
  let f := (a.extractLsb' 0 23).toNat
  (if a.getLsbD 31 then -1 else 1) *
    (if e = 0 then (f : ℚ) / 2 ^ 149 else ((2 : ℚ) ^ 23 + f) * 2 ^ e / 2 ^ 150)

/-- The least magnitude, in units of 2^-149, that roundTiesToEven sends to infinity: half a unit in the last
place above the greatest finite value (IEEE 754, R11). -/
def overflowThreshold : ℚ := (2 ^ 25 - 1) * 2 ^ 252

/-- `r` is the binary32 to which roundTiesToEven sends `exact` (in units of 2^-149; IEEE 754, R11): below the
overflow threshold a finite value that none is nearer than, with an even last bit where another is as near;
from the threshold on an infinity. A result has the sign of `exact`, and `zeroSign` where `exact` is 0. -/
def RoundsTo (exact : ℚ) (zeroSign : Bool) (r : F32) : Prop :=
  fSign r = (if exact = 0 then zeroSign else decide (exact < 0)) ∧
  (|exact| < overflowThreshold → isFinite r = true ∧
    ∀ w : F32, isFinite w = true →
      |(fVal r : ℚ) - exact| ≤ |(fVal w : ℚ) - exact| ∧
      (fVal w ≠ fVal r → |(fVal r : ℚ) - exact| = |(fVal w : ℚ) - exact| → fBits r % 2 = 0)) ∧
  (overflowThreshold ≤ |exact| → isInf r = true)

end Sys2Proof.Machine
end

