-- ==== Sys2Proof/Certificates/Slice0/Obligations.lean ====
section
/-! DEFINITION. The statements for the provers, in the order of the spec's files. -/

open Sys2Proof Sys2Proof.Machine

/-! ### Encoding (30_encoding.md) -/

/-- R80, R85, R89: decoding the packet of a well-formed instruction gives it back, with every operand at
every value the encoding admits. -/
def Obligations.DecodeInvertsEncode : Prop :=
  ∀ i : Instr, i.wellFormed = true → decode (encode i) = i

/-- R80, R81, R84, R85: whatever a packet decodes to is well-formed, and encoding it gives back WE, ADDR, and
DATA wherever the packet is a write to a register that takes its DATA. -/
def Obligations.EncodeKeepsSignificantBits : Prop :=
  ∀ p : Packet,
    (decode p).wellFormed = true ∧
    packetWe (encode (decode p)) = packetWe p ∧
    packetAddr (encode (decode p)) = packetAddr p ∧
    (packetWe p = true → (packetAddr p).extractLsb' 0 2 = 0#2 → packetAddr p ≤ 0x20#8 →
      packetData (encode (decode p)) = packetData p)

/-- R85, R86, R100: the row of the opcode table that a packet decodes to is the first row, in the order of
R86, whose match and mask fit the packet; so the decode is total. -/
def Obligations.DecodeFollowsOpcodeTable : Prop :=
  ∀ p : Packet,
    (opcodeRows.find? fun row => row.matches p).map OpcodeRow.mnemonic = some (decode p).mnemonic

/-- R81: a read packet is decoded by ADDR alone, and each row that names the register it reads has the mask
of WE and ADDR. -/
def Obligations.ReadPacketsIgnoreData : Prop :=
  (∀ (a : RegAddr) (d d' : Word), decode (packet false a d) = decode (packet false a d')) ∧
  (∀ row ∈ opcodeRows, row.pat.getLsbD 40 = false → row.mnemonic ≠ "RD_UNMAPPED" →
    row.mask = 0x1FF00000000#41)

/-- 95_test_vectors.md E1 to E15, R88: words written out from the encoding decode to their instructions. -/
def Obligations.WrittenOutPacketsDecode : Prop :=
  decode 0x10000000000#41 = .nop ∧
  decode 0x10000000001#41 = .calibrate ∧
  decode 0x10000000002#41 = .update ∧
  decode 0x10000000101#41 = .cmdReserved 0x101#32 ∧
  decode 0x10400000308#41 = .wrStatus 0x308#32 ∧
  decode 0x1143F7AE148#41 = .wrAlpha 0x3F7AE148#32 ∧
  decode 0x024DEADBEEF#41 = .rdRoll ∧
  decode 0x02500000000#41 = .rdUnmapped 0x25#8 ∧
  decode 0x1FC00000001#41 = .wrUnmapped 0xFC#8 ∧
  decode 0x15400000000#41 = .wrId ∧
  decode 0x03800000000#41 = .rdTLastHi

/-! ### The transition system (00_scope.md R8, 40_host_access.md R100) -/

/-- R100: a step at a packet runs the instruction it decodes to, on the state without that event; in
particular the packet of a well-formed instruction, and the one `withFetchWord` puts in front. -/
def Obligations.StepRunsTheDecodedInstruction : Prop :=
  (∀ (s : State) (p : Packet) (rest : List Event), s.env.schedule = .transact p :: rest →
    step s = exec (decode p) { s with env := { s.env with schedule := rest } }) ∧
  (∀ (s : State) (i : Instr) (rest : List Event), i.wellFormed = true →
    s.env.schedule = .transact (encode i) :: rest →
    step s = exec i { s with env := { s.env with schedule := rest } }) ∧
  (∀ (s : State) (i : Instr), i.wellFormed = true →
    step (s.withFetchWord 48 (encode i).toNat) = exec i s)

/-- R202: CFIMU has no traps. Every step of every state answers a next state. -/
def Obligations.EveryStepAnswersANextState : Prop :=
  ∀ s : State, ∃ t, step s = .next t

/-- R230: a reset step writes every register and every internal variable to its reset value, in whatever
state it comes; `irq` is 0 after it. The agents around the block keep what they hold (log 5, the model's choice). -/
def Obligations.HardwareResetWritesEveryValue : Prop :=
  ∀ (s : State) (rest : List Event), s.env.schedule = .rst :: rest →
    ∃ t, step s = .next t ∧
      [Reg.status, .config, .retryMax, .calN, .alpha, .beta, .accStatTh, .gzStatTh, .roll, .pitch, .yaw,
        .yawBias, .tLastLo, .tLastHi, .goffX, .goffY, .goffZ, .aoffX, .aoffY, .aoffZ, .id].map t.readReg =
      [0x00000000#32, 0x00000000#32, 0x00000032#32, 0x000001F4#32, 0x3F7AE148#32, 0#32, 0#32, 0#32, 0#32, 0#32,
        0#32, 0#32, 0#32, 0#32, 0#32, 0#32, 0#32, 0#32, 0#32, 0#32, 0x43464931#32] ∧
      t.seq = {
        phase := .idle, attempt := 0#8, sampleIdx := 0#16, gsum := ⟨0#32, 0#32, 0#32⟩
        asum := ⟨0#32, 0#32, 0#32⟩, acal := ⟨0#32, 0#32, 0#32⟩, tMark := 0#64 } ∧
      t.irq = false ∧ t.env = { s.env with schedule := rest }

/-! ### STATUS and the interrupt output (10_state.md R23, R24; 60_exceptions.md R204) -/

/-- R23, R24, R48: each field of STATUS stands at its bits of the word that a read returns, BUSY is 1 exactly
when the phase is not IDLE, and every other bit is 0. -/
def Obligations.StatusWordLayout : Prop :=
  ∀ s : State,
    (s.readReg .status).getLsbD 0 = decide (s.seq.phase ≠ .idle) ∧
    (s.readReg .status).getLsbD 1 = s.status.calValid ∧
    (s.readReg .status).getLsbD 2 = s.status.tValid ∧
    (s.readReg .status).getLsbD 3 = s.status.done ∧
    (s.readReg .status).extractLsb' 4 3 = s.status.err ∧
    (s.readReg .status).getLsbD 7 = false ∧
    (s.readReg .status).getLsbD 8 = s.status.cmdRej ∧
    (s.readReg .status).getLsbD 9 = s.status.wrRej ∧
    (s.readReg .status).extractLsb' 10 2 = 0#2 ∧
    (s.readReg .status).extractLsb' 12 2 = s.status.lastOp ∧
    (s.readReg .status).extractLsb' 14 18 = 0#18

/-- R204, R27: `irq` is DONE and IRQ_EN; a step raises it only by completing a command, by accepting an
UPDATE that completes at once with NOT_CALIBRATED, or by a host write that sets IRQ_EN. -/
def Obligations.InterruptRisesOnlyAtCompletionOrEnable : Prop :=
  ∀ s t : State, step s = .next t →
    (s.irq = (s.status.done && s.config.irqEn)) ∧
    (s.irq = false → t.irq = true →
      (s.busy = true ∧ t.busy = false ∧ t.status.done = true) ∨
      (∃ p rest, s.env.schedule = .transact p :: rest ∧ decode p = .update ∧ s.busy = false ∧
        s.status.calValid = false) ∨
      (∃ p rest d, s.env.schedule = .transact p :: rest ∧ decode p = .wrConfig d ∧ d.getLsbD 4 = true ∧
        s.busy = false ∧ s.status.done = true))

/-! ### Reads (40_host_access.md R101 to R104) -/

/-- R101 to R104: each read answers a next state that differs only in the response the host receives:
the register's word, with reserved bits 0; 0 for CMD and for an unmapped or misaligned address. -/
def Obligations.ReadsReturnTheRegister : Prop :=
  ∀ (s : State) (a : RegAddr),
    let reads := fun (i : Instr) (v : Word) =>
      exec i s = .next { s with env := { s.env with lastRead := some v } }
    reads .rdCmd 0#32 ∧
    reads .rdStatus (0#18 ++ s.status.lastOp ++ 0#2 ++ BitVec.ofBool s.status.wrRej ++
      BitVec.ofBool s.status.cmdRej ++ 0#1 ++ s.status.err ++ BitVec.ofBool s.status.done ++
      BitVec.ofBool s.status.tValid ++ BitVec.ofBool s.status.calValid ++ BitVec.ofBool s.busy) ∧
    reads .rdConfig (0#27 ++ BitVec.ofBool s.config.irqEn ++ s.config.accelFs ++ s.config.gyroFs) ∧
    reads .rdRetryMax (0#24 ++ s.retryMax) ∧
    reads .rdCalN (0#16 ++ s.calN) ∧
    reads .rdAlpha s.alpha ∧ reads .rdBeta s.beta ∧
    reads .rdAccStatTh s.accStatTh ∧ reads .rdGzStatTh s.gzStatTh ∧
    reads .rdRoll s.orient.roll ∧ reads .rdPitch s.orient.pitch ∧
    reads .rdYaw s.orient.yaw ∧ reads .rdYawBias s.orient.yawBias ∧
    reads .rdTLastLo (s.orient.tLast.extractLsb' 0 32) ∧ reads .rdTLastHi (s.orient.tLast.extractLsb' 32 32) ∧
    reads .rdGoffX s.offsets.gyro.x ∧ reads .rdGoffY s.offsets.gyro.y ∧ reads .rdGoffZ s.offsets.gyro.z ∧
    reads .rdAoffX s.offsets.accel.x ∧ reads .rdAoffY s.offsets.accel.y ∧ reads .rdAoffZ s.offsets.accel.z ∧
    reads .rdId 0x43464931#32 ∧
    reads (.rdUnmapped a) 0#32

/-- R61, R62, R64, R104: over all 256 addresses, a read packet's step changes nothing but the response, which
is the word of the register at an aligned address of the map and 0 at every other address. -/
def Obligations.ReadTransactionsCoverTheRegisterSpace : Prop :=
  ∀ (s : State) (p : Packet) (rest : List Event),
    s.env.schedule = .transact p :: rest → packetWe p = false →
    let words := [Reg.cmd, .status, .config, .retryMax, .calN, .alpha, .beta, .accStatTh, .gzStatTh, .roll,
      .pitch, .yaw, .yawBias, .tLastLo, .tLastHi, .goffX, .goffY, .goffZ, .aoffX, .aoffY, .aoffZ, .id].map
      s.readReg
    let a := (packetAddr p).toNat
    step s = .next { s with env := { s.env with
      schedule := rest
      lastRead := some (if a % 4 = 0 then words.getD (a / 4) 0#32 else 0#32) } }

/-! ### Writes (40_host_access.md R107 to R116) -/

/-- R108: a write to STATUS clears the flags whose bit is 1 in DATA and changes nothing else, busy or not. -/
def Obligations.StatusWriteClearsFlags : Prop :=
  ∀ (s : State) (d : Word),
    exec (.wrStatus d) s = .next { s with status := { s.status with
      done := s.status.done && !d.getLsbD 3
      cmdRej := s.status.cmdRej && !d.getLsbD 8
      wrRej := s.status.wrRej && !d.getLsbD 9 } }

/-- R109, R107: while idle a write to CONFIG stores DATA[1:0], DATA[3:2] and DATA[4]; while busy it only sets
WR_REJ. -/
def Obligations.ConfigWrite : Prop :=
  ∀ (s : State) (d : Word),
    (s.seq.phase = .idle → exec (.wrConfig d) s = .next { s with
      config := { gyroFs := d.extractLsb' 0 2, accelFs := d.extractLsb' 2 2, irqEn := d.getLsbD 4 } }) ∧
    (s.seq.phase ≠ .idle → exec (.wrConfig d) s = .next { s with status := { s.status with wrRej := true } })

/-- R110, R111, R107: while idle a write to RETRY_MAX stores DATA[7:0] and a write to CAL_N stores DATA[15:0],
unless the field is 0; every other such write only sets WR_REJ. -/
def Obligations.CountWrites : Prop :=
  ∀ (s : State) (d : Word),
    let rejected := { s with status := { s.status with wrRej := true } }
    (s.seq.phase = .idle → d.toNat % 256 ≠ 0 →
      exec (.wrRetryMax d) s = .next { s with retryMax := BitVec.ofNat 8 d.toNat }) ∧
    (s.seq.phase ≠ .idle ∨ d.toNat % 256 = 0 → exec (.wrRetryMax d) s = .next rejected) ∧
    (s.seq.phase = .idle → d.toNat % 65536 ≠ 0 →
      exec (.wrCalN d) s = .next { s with calN := BitVec.ofNat 16 d.toNat }) ∧
    (s.seq.phase ≠ .idle ∨ d.toNat % 65536 = 0 → exec (.wrCalN d) s = .next rejected)

/-- R112, R113, R107: ALPHA and BETA take, while idle and as written, exactly the patterns of 0.0 to 1.0 and
of -0.0 (`0x00000000` to `0x3F800000`, `0x80000000`); every other write only sets WR_REJ. -/
def Obligations.CoefficientWrites : Prop :=
  ∀ (s : State) (d : Word),
    let legal := d.toNat ≤ 0x3F800000 ∨ d = 0x80000000#32
    (s.seq.phase = .idle → legal →
      exec (.wrAlpha d) s = .next { s with alpha := d } ∧ exec (.wrBeta d) s = .next { s with beta := d }) ∧
    (s.seq.phase ≠ .idle ∨ ¬ legal →
      exec (.wrAlpha d) s = .next { s with status := { s.status with wrRej := true } } ∧
      exec (.wrBeta d) s = .next { s with status := { s.status with wrRej := true } })

/-- R114, R115, R107: the stationary thresholds take, while idle and as written, exactly the patterns of
+0.0 to +infinity and of -0.0; every other write only sets WR_REJ. -/
def Obligations.ThresholdWrites : Prop :=
  ∀ (s : State) (d : Word),
    let legal := d.toNat ≤ 0x7F800000 ∨ d = 0x80000000#32
    (s.seq.phase = .idle → legal →
      exec (.wrAccStatTh d) s = .next { s with accStatTh := d } ∧
      exec (.wrGzStatTh d) s = .next { s with gzStatTh := d }) ∧
    (s.seq.phase ≠ .idle ∨ ¬ legal →
      exec (.wrAccStatTh d) s = .next { s with status := { s.status with wrRej := true } } ∧
      exec (.wrGzStatTh d) s = .next { s with status := { s.status with wrRej := true } })

/-- R116: a write to a read-only register, to an unmapped or to a misaligned address sets WR_REJ and changes
nothing else, busy or not. -/
def Obligations.ReadOnlyAndUnmappedWritesAreRejected : Prop :=
  ∀ (s : State) (a : RegAddr),
    ∀ i ∈ [Instr.wrRoll, .wrPitch, .wrYaw, .wrYawBias, .wrTLastLo, .wrTLastHi, .wrGoffX, .wrGoffY, .wrGoffZ,
      .wrAoffX, .wrAoffY, .wrAoffZ, .wrId, .wrUnmapped a],
    exec i s = .next { s with status := { s.status with wrRej := true } }

/-! ### Commands (40_host_access.md R105, R106; 41_calibrate.md R138; 42_update.md R173) -/

/-- R85, R105, R106: NOP changes nothing while idle and sets CMD_REJ alone while busy; a reserved command word
sets CMD_REJ alone, busy or not. -/
def Obligations.NopAndReservedCommands : Prop :=
  ∀ (s : State) (d : Word),
    let rejected := { s with status := { s.status with cmdRej := true } }
    (s.seq.phase = .idle → exec .nop s = .next s) ∧
    (s.seq.phase ≠ .idle → exec .nop s = .next rejected) ∧
    exec (.cmdReserved d) s = .next rejected

/-- R138: CALIBRATE is accepted while idle: DONE and ERR are cleared, LAST_OP is 1, the sums and counts are 0
and the phase is CAL_GYRO, with no attempt made; while busy it is rejected with CMD_REJ alone. -/
def Obligations.CalibrateAcceptance : Prop :=
  ∀ s : State,
    (s.seq.phase = .idle → exec .calibrate s = .next { s with
      status := { s.status with done := false, err := 0#3, lastOp := 1#2 }
      seq := { s.seq with
        phase := .calGyro, attempt := 0#8, sampleIdx := 0#16
        gsum := ⟨0#32, 0#32, 0#32⟩, asum := ⟨0#32, 0#32, 0#32⟩ } }) ∧
    (s.seq.phase ≠ .idle → exec .calibrate s = .next { s with status := { s.status with cmdRej := true } })

/-- R173: UPDATE is accepted while idle: DONE and ERR are cleared and LAST_OP is 2; with CAL_VALID the phase
becomes UPD_ACCEL, without it the command completes in the same step with NOT_CALIBRATED; while busy it is
rejected with CMD_REJ alone. -/
def Obligations.UpdateAcceptance : Prop :=
  ∀ s : State,
    (s.seq.phase = .idle → s.status.calValid = true → exec .update s = .next { s with
      status := { s.status with done := false, err := 0#3, lastOp := 2#2 }
      seq := { s.seq with phase := .updAccel, attempt := 0#8 } }) ∧
    (s.seq.phase = .idle → s.status.calValid = false → exec .update s = .next { s with
      status := { s.status with done := true, err := 3#3, lastOp := 2#2 } }) ∧
    (s.seq.phase ≠ .idle → exec .update s = .next { s with status := { s.status with cmdRej := true } })

/-- R105, R206: a CMD write meets its tests in order: busy, reserved bits, then the opcode. -/
def Obligations.CommandDispatchOrder : Prop :=
  ∀ (s : State) (d : Word) (rest : List Event),
    s.env.schedule = .transact (packet true 0x00#8 d) :: rest →
    let s' : State := { s with env := { s.env with schedule := rest } }
    let rejected : State := { s' with status := { s.status with cmdRej := true } }
    step s =
      if s.seq.phase ≠ .idle then .next rejected
      else if d.toNat / 256 ≠ 0 then .next rejected
      else if d.toNat % 256 = 0 then exec .nop s'
      else if d.toNat % 256 = 1 then exec .calibrate s'
      else if d.toNat % 256 = 2 then exec .update s'
      else .next rejected

/-- R107, R202, R203, R231, R240: no host transaction disturbs a running command: the sequencer, the
configuration, the results, CAL_VALID, T_VALID, ERR, LAST_OP and the ports stay as they are. -/
def Obligations.TransactionsLeaveARunningCommandAlone : Prop :=
  ∀ (s t : State) (p : Packet) (rest : List Event), s.busy = true →
    s.env.schedule = .transact p :: rest → step s = .next t →
    t.seq = s.seq ∧ t.config = s.config ∧ t.retryMax = s.retryMax ∧ t.calN = s.calN ∧ t.alpha = s.alpha ∧
    t.beta = s.beta ∧ t.accStatTh = s.accStatTh ∧ t.gzStatTh = s.gzStatTh ∧ t.orient = s.orient ∧
    t.offsets = s.offsets ∧
    (t.status = { s.status with done := t.status.done, cmdRej := t.status.cmdRej, wrRej := t.status.wrRej }) ∧
    (t.status.done = true → s.status.done = true) ∧
    t.env = { s.env with schedule := rest, lastRead := t.env.lastRead }

/-! ### Flags over all steps (10_state.md R25 to R31) -/

/-- R25, R26: CAL_VALID and T_VALID are set by a successful completion of CALIBRATE and of UPDATE only, and
fall only at reset. -/
def Obligations.ValidityFlagsFallOnlyAtReset : Prop :=
  ∀ s t : State, step s = .next t →
    ((s.status.calValid = true ∧ t.status.calValid = false) ∨
      (s.status.tValid = true ∧ t.status.tValid = false) → ∃ rest, s.env.schedule = .rst :: rest) ∧
    (s.status.calValid = false → t.status.calValid = true →
      s.seq.phase = .calFinish ∧ t.seq.phase = .idle ∧ t.status.err = 0#3 ∧ t.status.done = true) ∧
    (s.status.tValid = false → t.status.tValid = true →
      s.seq.phase = .updGyro ∧ t.seq.phase = .idle ∧ t.status.err = 0#3 ∧ t.status.done = true)

/-- R29, R30: CMD_REJ and WR_REJ are sticky: only reset or a write of 1 to their bit of STATUS clears them. -/
def Obligations.RejectionFlagsAreSticky : Prop :=
  ∀ s t : State, step s = .next t →
    (s.status.cmdRej = true → t.status.cmdRej = false →
      (∃ rest, s.env.schedule = .rst :: rest) ∨
      (∃ p rest, s.env.schedule = .transact p :: rest ∧ packetWe p = true ∧ packetAddr p = 0x04#8 ∧
        (packetData p).getLsbD 8 = true)) ∧
    (s.status.wrRej = true → t.status.wrRej = false →
      (∃ rest, s.env.schedule = .rst :: rest) ∨
      (∃ p rest, s.env.schedule = .transact p :: rest ∧ packetWe p = true ∧ packetAddr p = 0x04#8 ∧
        (packetData p).getLsbD 9 = true))

/-- R27: DONE rises only with the completion of a command, and falls only at reset, by a write of 1 to STATUS
bit 3, or when a CALIBRATE or UPDATE is accepted. -/
def Obligations.DoneFollowsCompletion : Prop :=
  ∀ s t : State, step s = .next t →
    (s.status.done = false → t.status.done = true →
      (s.busy = true ∧ t.busy = false) ∨
      (∃ p rest, s.env.schedule = .transact p :: rest ∧ decode p = .update ∧ s.busy = false ∧
        s.status.calValid = false ∧ t.status.err = 3#3)) ∧
    (s.status.done = true → t.status.done = false →
      (∃ rest, s.env.schedule = .rst :: rest) ∨
      (∃ p rest d, s.env.schedule = .transact p :: rest ∧ decode p = .wrStatus d ∧ d.getLsbD 3 = true) ∨
      (∃ p rest, s.env.schedule = .transact p :: rest ∧ (decode p = .calibrate ∨ decode p = .update) ∧
        s.busy = false))

/-! ### Results over all steps (10_state.md R39 to R45; 20_memory.md R65, R70, R72) -/

/-- R39 to R43, R72, R171: the OrientationState changes only at reset and in the one step in which an UPDATE
commits; T_LAST is then the time that step sampled. -/
def Obligations.OnlyACommitWritesTheOrientation : Prop :=
  ∀ s t : State, step s = .next t → t.orient ≠ s.orient →
    (∃ rest, s.env.schedule = .rst :: rest) ∨
    (s.seq.phase = .updGyro ∧ t.seq.phase = .idle ∧ t.status.done = true ∧ t.status.err = 0#3 ∧
      t.status.tValid = true ∧ s.env.clock = t.orient.tLast :: t.env.clock)

/-- R44, R45, R72, R142: the offsets change only at reset and in the one step in which a CALIBRATE completes
successfully. -/
def Obligations.OnlyAFinishedCalibrationWritesTheOffsets : Prop :=
  ∀ s t : State, step s = .next t → t.offsets ≠ s.offsets →
    (∃ rest, s.env.schedule = .rst :: rest) ∨
    (s.seq.phase = .calFinish ∧ t.seq.phase = .idle ∧ t.status.done = true ∧ t.status.err = 0#3 ∧
      t.status.calValid = true)

/-- R65, R139, R140, R174, R175: a step makes at most one attempt, of the kind its phase reads, and takes one
answer of that kind; every other step makes none. -/
def Obligations.AttemptsOnlyInReadingPhases : Prop :=
  ∀ s t : State, step s = .next t →
    (t.env.attempts = s.env.attempts ∧ t.env.gyroLink = s.env.gyroLink ∧ t.env.accelLink = s.env.accelLink) ∨
    (s.seq.phase.reads = some .gyro ∧ t.env.attempts = .gyro :: s.env.attempts ∧
      (∃ r, s.env.gyroLink = r :: t.env.gyroLink) ∧ t.env.accelLink = s.env.accelLink) ∨
    (s.seq.phase.reads = some .accel ∧ t.env.attempts = .accel :: s.env.attempts ∧
      (∃ r, s.env.accelLink = r :: t.env.accelLink) ∧ t.env.gyroLink = s.env.gyroLink)

/-- R70: the time input is sampled only in the step that ends an update's computation, in the step that
completes a calibration sample, and in the delay test; each takes one sample. -/
def Obligations.TimeIsSampledAtTwoPointsOnly : Prop :=
  ∀ s t : State, step s = .next t →
    t.env.clock = s.env.clock ∨
    ((∃ x, s.env.clock = x :: t.env.clock) ∧
      ((s.seq.phase = .updGyro ∧ t.seq.phase = .idle) ∨
       (s.seq.phase = .calAccel ∧ t.seq.phase = .calDelay ∧ t.seq.sampleIdx = s.seq.sampleIdx + 1#16) ∨
       s.seq.phase = .calDelay))

/-! ### Block steps (41_calibrate.md R133 to R144; 42_update.md R174 to R177) -/

/-- R134, R136, R201: a failed attempt is counted; at RETRY_MAX the command completes with the code of the
kind read; nothing else changes. -/
def Obligations.FailedAttemptCountsOrEndsTheCommand : Prop :=
  (∀ (s : State) (rest : List SensorAnswer), s.seq.phase = .calGyro ∨ s.seq.phase = .updGyro →
    s.env.gyroLink = .err :: rest →
    let env := { s.env with gyroLink := rest, attempts := .gyro :: s.env.attempts }
    let n := s.seq.attempt + 1#8
    s.blockStep =
      if n = s.retryMax then { s with
        env := env, seq := { s.seq with attempt := n, phase := .idle }
        status := { s.status with err := 1#3, done := true } }
      else { s with env := env, seq := { s.seq with attempt := n } }) ∧
  (∀ (s : State) (rest : List SensorAnswer), s.seq.phase = .calAccel ∨ s.seq.phase = .updAccel →
    s.env.accelLink = .err :: rest →
    let env := { s.env with accelLink := rest, attempts := .accel :: s.env.attempts }
    let n := s.seq.attempt + 1#8
    s.blockStep =
      if n = s.retryMax then { s with
        env := env, seq := { s.seq with attempt := n, phase := .idle }
        status := { s.status with err := 2#3, done := true } }
      else { s with env := env, seq := { s.seq with attempt := n } })

/-- R136: a read whose every attempt fails makes exactly RETRY_MAX attempts, stays in its phase before the
last of them, and then ends the command with the exhaustion code; no other register changes. -/
def Obligations.ExhaustedReadMakesRetryMaxAttempts : Prop :=
  (∀ (s : State) (rest : List SensorAnswer), s.seq.phase.reads = some .gyro → s.seq.attempt = 0#8 →
    s.retryMax ≠ 0#8 → s.env.gyroLink = List.replicate s.retryMax.toNat .err ++ rest →
    (∀ k < s.retryMax.toNat, (s.blockSteps k).seq.phase = s.seq.phase ∧ (s.blockSteps k).status = s.status) ∧
    s.blockSteps s.retryMax.toNat = { s with
      status := { s.status with err := 1#3, done := true }
      seq := { s.seq with phase := .idle, attempt := s.retryMax }
      env := { s.env with
        gyroLink := rest, attempts := List.replicate s.retryMax.toNat .gyro ++ s.env.attempts } }) ∧
  (∀ (s : State) (rest : List SensorAnswer), s.seq.phase.reads = some .accel → s.seq.attempt = 0#8 →
    s.retryMax ≠ 0#8 → s.env.accelLink = List.replicate s.retryMax.toNat .err ++ rest →
    (∀ k < s.retryMax.toNat, (s.blockSteps k).seq.phase = s.seq.phase ∧ (s.blockSteps k).status = s.status) ∧
    s.blockSteps s.retryMax.toNat = { s with
      status := { s.status with err := 2#3, done := true }
      seq := { s.seq with phase := .idle, attempt := s.retryMax }
      env := { s.env with
        accelLink := rest, attempts := List.replicate s.retryMax.toNat .accel ++ s.env.attempts } })

/-- R139: a gyro triple read in CAL_GYRO is converted and added to the gyro sums. -/
def Obligations.CalGyroStepAddsTheSample : Prop :=
  ∀ (s : State) (x y z : Raw) (rest : List SensorAnswer), s.seq.phase = .calGyro →
    s.env.gyroLink = .ok x y z :: rest →
    let fs := s.config.gyroFs
    s.blockStep = { s with
      env := { s.env with gyroLink := rest, attempts := .gyro :: s.env.attempts }
      seq := { s.seq with
        gsum := ⟨fadd s.seq.gsum.x (convGyro x fs), fadd s.seq.gsum.y (convGyro y fs),
          fadd s.seq.gsum.z (convGyro z fs)⟩
        attempt := 0#8
        phase := .calAccel } }

/-- R140: an accelerometer triple read in CAL_ACCEL is converted, less 1 g on Z, and added; after sample
CAL_N the phase is CAL_FINISH, before it the time is marked and the delay begins. -/
def Obligations.CalAccelStepEndsTheSample : Prop :=
  ∀ (s : State) (x y z : Raw) (rest : List SensorAnswer), s.seq.phase = .calAccel →
    s.env.accelLink = .ok x y z :: rest →
    let fs := s.config.accelFs
    let asum : Vec3 := ⟨fadd s.seq.asum.x (convAccel x fs), fadd s.seq.asum.y (convAccel y fs),
      fadd s.seq.asum.z (fsub (convAccel z fs) G1)⟩
    let env := { s.env with accelLink := rest, attempts := .accel :: s.env.attempts }
    (s.seq.sampleIdx + 1#16 = s.calN →
      s.blockStep = { s with
        env := env
        seq := { s.seq with asum := asum, sampleIdx := s.seq.sampleIdx + 1#16, phase := .calFinish } }) ∧
    (∀ (m : Time) (times : List Time), s.seq.sampleIdx + 1#16 ≠ s.calN → s.env.clock = m :: times →
      s.blockStep = { s with
        env := { env with clock := times }
        seq := { s.seq with
          asum := asum, sampleIdx := s.seq.sampleIdx + 1#16, tMark := m, phase := .calDelay } })

/-- R141: the delay test samples the time and goes on to the next sample once CAL_DELAY = 2000 ticks (the
default of R6, log 13), read as a signed 64-bit difference, have passed since the mark; else it waits. -/
def Obligations.CalDelayStepTestsTheTime : Prop :=
  ∀ (s : State) (m : Time) (times : List Time), s.seq.phase = .calDelay → s.env.clock = m :: times →
    s.blockStep =
      if 2000 ≤ (m - s.seq.tMark).toInt then { s with
        env := { s.env with clock := times }, seq := { s.seq with attempt := 0#8, phase := .calGyro } }
      else { s with env := { s.env with clock := times } }

/-- R142, R201: CAL_FINISH writes the six offsets, the sums divided by N, sets CAL_VALID and completes with OK. -/
def Obligations.CalFinishStepWritesTheOffsets : Prop :=
  ∀ s : State, s.seq.phase = .calFinish →
    let n := i2f s.calN.toNat
    s.blockStep = { s with
      offsets := {
        gyro := ⟨fdiv s.seq.gsum.x n, fdiv s.seq.gsum.y n, fdiv s.seq.gsum.z n⟩
        accel := ⟨fdiv s.seq.asum.x n, fdiv s.seq.asum.y n, fdiv s.seq.asum.z n⟩ }
      status := { s.status with calValid := true, err := 0#3, done := true }
      seq := { s.seq with phase := .idle } }

/-- R174, R132: an accelerometer triple read in UPD_ACCEL is converted and offset-corrected into S.acal. -/
def Obligations.UpdAccelStepHoldsTheTriple : Prop :=
  ∀ (s : State) (x y z : Raw) (rest : List SensorAnswer), s.seq.phase = .updAccel →
    s.env.accelLink = .ok x y z :: rest →
    let fs := s.config.accelFs
    let off := s.offsets.accel
    s.blockStep = { s with
      env := { s.env with accelLink := rest, attempts := .accel :: s.env.attempts }
      seq := { s.seq with
        acal := ⟨fsub (convAccel x fs) off.x, fsub (convAccel y fs) off.y, fsub (convAccel z fs) off.z⟩
        attempt := 0#8
        phase := .updGyro } }

/-- R132, R162 to R171, R175, R177: the gyro triple read in UPD_GYRO completes the update in the same step:
the time is sampled, the angles, the bias and the yaw are computed by the formulas of the rules (with the
defaults RAD_TO_DEG = 0x42652EE1 and TIME_HZ = 1000000 of R6, log 13), and all are committed with T_LAST,
T_VALID and result OK; where a Wrap meets a non-finite value the command ends with NUMERIC instead and
commits nothing. -/
def Obligations.UpdGyroStepComputesTheUpdate : Prop :=
  ∀ (s : State) (x y z : Raw) (rest : List SensorAnswer) (tNow : Time) (times : List Time),
    s.seq.phase = .updGyro → s.env.gyroLink = .ok x y z :: rest → s.env.clock = tNow :: times →
    let fs := s.config.gyroFs
    let off := s.offsets.gyro
    let a := s.seq.acal
    let o := s.orient
    let gx := fsub (convGyro x fs) off.x
    let gy := fsub (convGyro y fs) off.y
    let gz := fsub (convGyro z fs) off.z
    let sgn := if flt a.z PZERO then MINUS_ONE else ONE
    let accX := fmul (atan2F32 a.y (fmul sgn (fsqrt (fadd (fmul a.z a.z) (fmul a.x a.x))))) 0x42652EE1#32
    let accY := fmul (fneg (atan2F32 a.x (fsqrt (fadd (fmul a.z a.z) (fmul a.y a.y))))) 0x42652EE1#32
    let d := (tNow - o.tLast).toInt
    let dtpos := s.status.tValid = true ∧ 0 < d
    let dt := fdiv (i2f d) (i2f 1000000)
    let gintX := if dtpos then fadd o.roll (fmul gx dt) else o.roll
    let gintY := if dtpos then fadd o.pitch (fmul (fmul sgn gy) dt) else o.pitch
    let wx := wrap .l180 (fsub gintX accX)
    let wy := wrap .l90 (fsub gintY accY)
    let roll := wx.bind fun w => wrap .l180 (fadd (fmul s.alpha (fadd accX w)) (fmul (fsub ONE s.alpha) accX))
    let pitch := wy.bind fun w => wrap .l90 (fadd (fmul s.alpha (fadd accY w)) (fmul (fsub ONE s.alpha) accY))
    let mag := fsqrt (fadd (fadd (fmul a.x a.x) (fmul a.y a.y)) (fmul a.z a.z))
    let still := flt (fabs (fsub mag ONE)) s.accStatTh = true ∧ flt (fabs gz) s.gzStatTh = true
    let bias := if still then fadd (fmul (fsub ONE s.beta) o.yawBias) (fmul s.beta gz) else o.yawBias
    let yaw := if dtpos then fadd o.yaw (fmul (fsub gz bias) dt) else o.yaw
    let env := { s.env with gyroLink := rest, attempts := .gyro :: s.env.attempts, clock := times }
    (∀ r p, roll = some r → pitch = some p →
      s.blockStep = { s with
        orient := { roll := r, pitch := p, yaw := yaw, yawBias := bias, tLast := tNow }
        status := { s.status with tValid := true, err := 0#3, done := true }
        seq := { s.seq with phase := .idle }
        env := env }) ∧
    (roll = none ∨ pitch = none →
      s.blockStep = { s with
        status := { s.status with err := 4#3, done := true }, seq := { s.seq with phase := .idle }, env := env })

/-- R67, R215, R242: the block makes no step in IDLE and none while a draw its step needs is not given: the
state stays as it is (for a draw not given: the model's choice of a wait, logs 3 and 4). -/
def Obligations.BlockWaitsForItsDraws : Prop :=
  ∀ s : State,
    (s.seq.phase = .idle → s.blockStep = s) ∧
    (s.seq.phase.reads = some .gyro → s.env.gyroLink = [] → s.blockStep = s) ∧
    (s.seq.phase.reads = some .accel → s.env.accelLink = [] → s.blockStep = s) ∧
    (s.seq.phase = .calDelay → s.env.clock = [] → s.blockStep = s) ∧
    (∀ x y z rest, s.seq.phase = .updGyro → s.env.gyroLink = .ok x y z :: rest → s.env.clock = [] →
      s.blockStep = s) ∧
    (∀ x y z rest, s.seq.phase = .calAccel → s.env.accelLink = .ok x y z :: rest → s.env.clock = [] →
      s.seq.sampleIdx + 1#16 ≠ s.calN → s.blockStep = s)

/-- R24, R29, R30, R31, R107: what no block step changes: the configuration registers, the rejection flags,
LAST_OP, and the host's side of the machine. -/
def Obligations.BlockStepFrame : Prop :=
  ∀ s : State,
    s.blockStep.config = s.config ∧ s.blockStep.retryMax = s.retryMax ∧ s.blockStep.calN = s.calN ∧
    s.blockStep.alpha = s.alpha ∧ s.blockStep.beta = s.beta ∧ s.blockStep.accStatTh = s.accStatTh ∧
    s.blockStep.gzStatTh = s.gzStatTh ∧ s.blockStep.status.cmdRej = s.status.cmdRej ∧
    s.blockStep.status.wrRej = s.status.wrRej ∧ s.blockStep.status.lastOp = s.status.lastOp ∧
    s.blockStep.env.schedule = s.env.schedule ∧ s.blockStep.env.lastRead = s.env.lastRead

/-- R144: no step of CALIBRATE, from its acceptance to its completion, successful or not, changes the
OrientationState or T_VALID. -/
def Obligations.CalibrateLeavesTheOrientation : Prop :=
  (∀ s t : State, exec .calibrate s = .next t → t.orient = s.orient ∧ t.status.tValid = s.status.tValid) ∧
  (∀ s : State, s.seq.phase.calibrating = true →
    s.blockStep.orient = s.orient ∧ s.blockStep.status.tValid = s.status.tValid)

/-- R143, R176, R202: a command that ends with an error leaves the offsets, the OrientationState, CAL_VALID and
T_VALID as they were: of STATUS only BUSY, DONE and ERR change. -/
def Obligations.FailedCommandLeavesTheResults : Prop :=
  ∀ s : State, s.busy = true → s.blockStep.busy = false → s.blockStep.status.err ≠ 0#3 →
    s.blockStep.orient = s.orient ∧ s.blockStep.offsets = s.offsets ∧
    s.blockStep.status = { s.status with err := s.blockStep.status.err, done := true }

/-! ### Whole commands -/

/-- R137 to R142: CALIBRATE as one command. While idle, with N samples answered by the link, each read after
fewer than RETRY_MAX errors, and every delay of CAL_DELAY = 2000 ticks (default of R6, log 13) met at its
first test, CALIBRATE followed by as many block steps as it makes attempts, delay tests and the finish ends with the offsets of the pseudocode of R137, CAL_VALID
and DONE set, ERR 0, LAST_OP 1, the OrientationState as before, and exactly those draws taken. -/
def Obligations.CalibrateComputesTheOffsets : Prop :=
  ∀ (s : State) (samples : List CalSample) (delays : List (Time × Time)) (g a : List SensorAnswer)
    (c : List Time),
    s.seq.phase = .idle → samples.length = s.calN.toNat → delays.length + 1 = samples.length →
    (∀ x ∈ samples, x.gyroErrs < s.retryMax.toNat ∧ x.accelErrs < s.retryMax.toNat) →
    (∀ d ∈ delays, 2000 ≤ (d.2 - d.1).toInt) →
    s.env.gyroLink = samples.flatMap CalSample.gyroAnswers ++ g →
    s.env.accelLink = samples.flatMap CalSample.accelAnswers ++ a →
    s.env.clock = delays.flatMap (fun d => [d.1, d.2]) ++ c →
    let n := i2f s.calN.toNat
    let sums := calibrationSums s.config.gyroFs s.config.accelFs samples ⟨0#32, 0#32, 0#32⟩ ⟨0#32, 0#32, 0#32⟩
    ∃ u, exec .calibrate s = .next u ∧
      let t := u.blockSteps ((samples.map CalSample.attempts).sum + delays.length + 1)
      t.seq.phase = .idle ∧
      t.offsets = {
        gyro := ⟨fdiv sums.1.x n, fdiv sums.1.y n, fdiv sums.1.z n⟩
        accel := ⟨fdiv sums.2.x n, fdiv sums.2.y n, fdiv sums.2.z n⟩ } ∧
      t.status = { s.status with calValid := true, done := true, err := 0#3, lastOp := 1#2 } ∧
      t.orient = s.orient ∧
      t.env.gyroLink = g ∧ t.env.accelLink = a ∧ t.env.clock = c ∧ t.env.schedule = s.env.schedule

/-- R172 to R175: UPDATE as one command. While idle and calibrated, with an accelerometer and a gyro triple each
answered after fewer than RETRY_MAX errors, UPDATE followed by its block steps commits the estimate from the
calibrated triples and the one time sample; a NUMERIC estimate commits nothing. -/
def Obligations.UpdateRunsToItsCommit : Prop :=
  ∀ (s : State) (m n : Nat) (ax ay az gx gy gz : Raw) (tNow : Time) (g a : List SensorAnswer) (c : List Time),
    s.seq.phase = .idle → s.status.calValid = true → m < s.retryMax.toNat → n < s.retryMax.toNat →
    s.env.accelLink = List.replicate m .err ++ .ok ax ay az :: a →
    s.env.gyroLink = List.replicate n .err ++ .ok gx gy gz :: g →
    s.env.clock = tNow :: c →
    ∃ u, exec .update s = .next u ∧
      let t := u.blockSteps (m + 1 + (n + 1))
      t.seq.phase = .idle ∧ t.status.done = true ∧ t.status.lastOp = 2#2 ∧ t.offsets = s.offsets ∧
      t.env.accelLink = a ∧ t.env.gyroLink = g ∧ t.env.clock = c ∧
      t.env.attempts = List.replicate (n + 1) .gyro ++ List.replicate (m + 1) .accel ++ s.env.attempts ∧
      match s.estimate (s.calAccel ax ay az) (s.calGyro gx gy gz) tNow with
      | some o => t.orient = o ∧ t.status.err = 0#3 ∧ t.status.tValid = true
      | none => t.orient = s.orient ∧ t.status.err = 4#3 ∧ t.status.tValid = s.status.tValid

/-! ### Invariants -/

/-- R13, R24 to R50, R177: the two invariants hold after reset (the numeric bounds include the first). -/
def Obligations.ResetIsLegalAndNumericallySafe : Prop := NumericSafe State.reset

/-- R24 to R50: every step keeps the invariant of the registers and the sequencer. -/
def Obligations.StepKeepsLegal : Prop :=
  ∀ s t : State, Legal s → step s = .next t → Legal t

/-- R13, R177: every step keeps the numeric bounds `NumericSafe`, under which ERR is never NUMERIC. -/
def Obligations.StepKeepsNumericallySafe : Prop :=
  ∀ s t : State, NumericSafe s → step s = .next t → NumericSafe t

/-- R13: under the numeric bounds `NumericSafe` no binary32 register is a NaN, and none is held in S.acal. -/
def Obligations.NoRegisterHoldsANaN : Prop :=
  ∀ s : State, NumericSafe s →
    (∀ r ∈ [Reg.alpha, .beta, .accStatTh, .gzStatTh, .roll, .pitch, .yaw, .yawBias, .goffX, .goffY, .goffZ,
      .aoffX, .aoffY, .aoffZ], isNaN (s.readReg r) = false) ∧
    (∀ v ∈ [s.seq.acal.x, s.seq.acal.y, s.seq.acal.z], isNaN v = false)

/-! ### Numbers (00_scope.md R11, R14; 41_calibrate.md R130, R131; 42_update.md R160 to R168) -/

/-- R63: the value in which the model computes is the value that IEEE 754 gives the pattern, in units of 2^-149. -/
def Obligations.ValueOfAPattern : Prop :=
  ∀ a : F32, isFinite a = true → (fVal a : ℚ) / 2 ^ 149 = ieeeValue a

/-- R11: `fadd` is the IEEE 754 sum on every pair of operands: of finite ones the exact sum rounded by
roundTiesToEven (`RoundsTo`: an infinity exactly from the overflow threshold on, the sign of a zero result
included, -0.0 for an exact zero sum only of two negative operands); of infinite ones an infinity, or a NaN
where their signs differ; of a NaN a NaN. -/
def Obligations.SumIsRoundedToNearestEven : Prop :=
  ∀ a b : F32,
    (isFinite a = true → isFinite b = true →
      RoundsTo ((fVal a : ℚ) + fVal b) (fSign a && fSign b) (fadd a b)) ∧
    (isInf a = true → isFinite b = true → fadd a b = a ∧ fadd b a = a) ∧
    (isInf a = true → isInf b = true → fSign a = fSign b → fadd a b = a) ∧
    (isInf a = true → isInf b = true → fSign a ≠ fSign b → isNaN (fadd a b) = true) ∧
    (isNaN a = true → isNaN (fadd a b) = true ∧ isNaN (fadd b a) = true)

/-- R11: `fmul` is the IEEE 754 product on every pair of operands: of finite ones the exact product (of unit
2^-298) rounded by roundTiesToEven (`RoundsTo`: an infinity exactly from the overflow threshold on, the sign of
a zero result included); an infinity times a non-zero value is an infinity, times 0 a NaN; of a NaN a NaN. The
sign of a product is negative where the signs of the operands differ. -/
def Obligations.ProductIsRoundedToNearestEven : Prop :=
  ∀ a b : F32,
    (isFinite a = true → isFinite b = true →
      RoundsTo ((fVal a : ℚ) * fVal b / 2 ^ 149) (fSign a != fSign b) (fmul a b)) ∧
    (isInf a = true → isNaN b = false → fMag b ≠ 0 →
      isInf (fmul a b) = true ∧ isInf (fmul b a) = true ∧
      fSign (fmul a b) = (fSign a != fSign b) ∧ fSign (fmul b a) = (fSign a != fSign b)) ∧
    (isInf a = true → fMag b = 0 → isNaN (fmul a b) = true ∧ isNaN (fmul b a) = true) ∧
    (isNaN a = true → isNaN (fmul a b) = true ∧ isNaN (fmul b a) = true)

/-- R11: `fdiv` is the IEEE 754 quotient on every pair of operands: of finite ones, the divisor not 0, the exact
quotient rounded by roundTiesToEven (`RoundsTo`: an infinity exactly from the overflow threshold on, the sign of
a zero result included); a non-zero value over ±0 is an infinity, and so is an infinity over a finite value; a
finite value over an infinity is a zero; 0 over 0 and an infinity over an infinity are NaNs; of a NaN a NaN. The
sign of a quotient is negative where the signs of the operands differ. -/
def Obligations.QuotientIsRoundedToNearestEven : Prop :=
  ∀ a b : F32,
    (isFinite a = true → isFinite b = true → fVal b ≠ 0 →
      RoundsTo ((fVal a : ℚ) * 2 ^ 149 / fVal b) (fSign a != fSign b) (fdiv a b)) ∧
    (isFinite a = true → fVal a ≠ 0 → fMag b = 0 →
      isInf (fdiv a b) = true ∧ fSign (fdiv a b) = (fSign a != fSign b)) ∧
    (isInf a = true → isFinite b = true →
      isInf (fdiv a b) = true ∧ fSign (fdiv a b) = (fSign a != fSign b)) ∧
    (isFinite a = true → isInf b = true →
      fBits (fdiv a b) = 0 ∧ fSign (fdiv a b) = (fSign a != fSign b)) ∧
    (fMag a = 0 → fMag b = 0 → isNaN (fdiv a b) = true) ∧
    (isInf a = true → isInf b = true → isNaN (fdiv a b) = true) ∧
    (isNaN a = true → isNaN (fdiv a b) = true ∧ isNaN (fdiv b a) = true)

/-- R11: `fsqrt` of a finite value that is not negative is finite, the nearest to the real square root, and of
the sign of its operand, so of -0.0 it is -0.0. -/
def Obligations.SquareRootIsNearest : Prop :=
  ∀ a : F32, isFinite a = true → 0 ≤ fVal a →
    let exact : ℝ := Real.sqrt ((fMag a : ℝ) * 2 ^ 149)
    isFinite (fsqrt a) = true ∧ fSign (fsqrt a) = fSign a ∧
    ∀ w : F32, isFinite w = true → |(fVal (fsqrt a) : ℝ) - exact| ≤ |(fVal w : ℝ) - exact|

/-- R11, R130, R131, R142, R165: `i2f` of every integer is that integer rounded by roundTiesToEven (`RoundsTo`;
of 0 it is +0.0), and exact up to 2^24 in magnitude; the accelerometer conversion is exact for every raw value and
full scale, and a converted gyro reading is finite and at most 2048 deg/s in magnitude. -/
def Obligations.ConversionsAreExactOrBounded : Prop :=
  (∀ n : Int,
    RoundsTo ((n : ℚ) * 2 ^ 149) false (i2f n) ∧
    (n.natAbs ≤ 2 ^ 24 → isFinite (i2f n) = true ∧ fVal (i2f n) = n * 2 ^ 149)) ∧
  ∀ (raw : Raw) (fs : BitVec 2),
    isFinite (convAccel raw fs) = true ∧
    fVal (convAccel raw fs) * (16384 / 2 ^ fs.toNat) = raw.toInt * 2 ^ 149 ∧
    atMost (convGyro raw fs) 2048 = true

/-- R160: `Wrap` of a finite value is that value within [-L, L], and otherwise the exact value after the least
number k ≥ 1 of turns of 2 L that brings it back, a zero result being +0.0; of a non-finite value it is NUMERIC. -/
def Obligations.WrapIsTheExactModularFold : Prop :=
  ∀ (L : WrapLimit) (a : F32),
    let l : Int := (match L with | .l180 => 180 | .l90 => 90) * 2 ^ 149
    (isFinite a = false → wrap L a = none) ∧
    (isFinite a = true → -l ≤ fVal a → fVal a ≤ l → wrap L a = some a) ∧
    (isFinite a = true → l < fVal a → ∃ r k, wrap L a = some r ∧ 1 ≤ k ∧
      fVal r = fVal a - 2 * l * k ∧ fVal r ≤ l ∧ l < fVal a - 2 * l * (k - 1) ∧ (fVal r = 0 → r = PZERO)) ∧
    (isFinite a = true → fVal a < -l → ∃ r k, wrap L a = some r ∧ 1 ≤ k ∧
      fVal r = fVal a + 2 * l * k ∧ -l ≤ fVal r ∧ fVal a + 2 * l * (k - 1) < -l ∧ (fVal r = 0 → r = PZERO))

/-- R161 (a), (b): a wrapped value is finite, lies in [-L, L], and wraps to itself. -/
def Obligations.WrapIsIdempotentInRange : Prop :=
  ∀ (L : WrapLimit) (a r : F32), wrap L a = some r →
    isFinite r = true ∧ (fVal r).natAbs ≤ (match L with | .l180 => 180 | .l90 => 90) * 2 ^ 149 ∧ wrap L r = some r

/-- R168: while a threshold is ±0.0 no update is judged stationary, so the bias is kept. -/
def Obligations.ZeroThresholdDisablesBiasLearning : Prop :=
  ∀ (a : Vec3) (gz accTh gzTh beta bias : F32),
    fBits accTh = 0 ∨ fBits gzTh = 0 →
    stationary a gz accTh gzTh = false ∧ newBias (stationary a gz accTh gzTh) beta bias gz = bias

/-- R14, R163: `ATAN2_F32` has the laws R14 lists: odd in its first argument, at most π_32 in magnitude, and
the special cases of zero arguments; so the accelerometer roll angle lies in [-180, 180]. -/
def Obligations.ArctangentLaws : Prop :=
  (∀ y x : F32, atan2F32 (fneg y) x = fneg (atan2F32 y x)) ∧
  (∀ y x : F32, fBits (atan2F32 y x) ≤ 0x40490FDB) ∧
  (∀ x : F32, isFinite x = true → fSign x = false → atan2F32 0x00000000#32 x = 0x00000000#32) ∧
  (∀ x : F32, isFinite x = true → fSign x = true → atan2F32 0x00000000#32 x = 0x40490FDB#32) ∧
  (∀ y x : F32, isFinite y = true → fMag y ≠ 0 → fMag x = 0 →
    atan2F32 y x = if fSign y then 0xBFC90FDB#32 else 0x3FC90FDB#32) ∧
  (∀ a : Vec3, atMost (accAngleX a) 180 = true)

/-- R14: the bracket in which the model holds the angle of a point of the first or second quadrant encloses
the real arctangent. -/
def Obligations.AngleBracketEnclosesTheArctangent : Prop :=
  ∀ P Y X : Nat, 0 < Y → 0 < X →
    let right := angleBounds P Y X false
    let left := angleBounds P Y X true
    (right.1 : ℝ) ≤ Real.arctan ((Y : ℝ) / X) * 2 ^ P ∧ Real.arctan ((Y : ℝ) / X) * 2 ^ P ≤ right.2 ∧
    (left.1 : ℝ) ≤ (Real.pi - Real.arctan ((Y : ℝ) / X)) * 2 ^ P ∧
    (Real.pi - Real.arctan ((Y : ℝ) / X)) * 2 ^ P ≤ left.2

/-- R14: wherever one of the model's precisions settles the rounding, `ATAN2_F32` of non-zero finite arguments
is a binary32 nearest to the real two-argument arctangent. -/
def Obligations.ArctangentIsNearest : Prop :=
  ∀ y x : F32, isFinite y = true → isFinite x = true → fMag y ≠ 0 → fMag x ≠ 0 →
    (angleBits atan2Precisions (fMag y) (fMag x) (fSign x)).isSome = true →
    let angle : ℝ := Complex.arg ⟨fVal x, fVal y⟩
    ∀ w : F32, isFinite w = true →
      |(fVal (atan2F32 y x) : ℝ) / 2 ^ 149 - angle| ≤ |(fVal w : ℝ) / 2 ^ 149 - angle|
end

