-- ==== Sys2Proof/Laws/Binary32.lean ====
section
/-! SUPPORT. The laws of the binary32 patterns and of the one rounding function: the order of the magnitude
bits is the order of the magnitudes, and a value that lies below (above) a representable one rounds to it
or below (above) it. -/

namespace Sys2Proof.Machine

/-- A significand of at most 24 bits, normalised unless the exponent is the least, has the magnitude its
exponent gives it; the carry into the next binade included (R63). -/
theorem magOfBits_eq (e k : Nat) (hk : k ≤ 2 ^ 24) (h : e = 0 ∨ 2 ^ 23 ≤ k) :
    magOfBits (e * 2 ^ 23 + k) = k * 2 ^ e := by
  unfold magOfBits
  rcases Nat.lt_or_ge k (2 ^ 23) with h23 | h23
  · obtain rfl : e = 0 := by omega
    rw [Nat.zero_mul, Nat.zero_add, if_pos h23, pow_zero, Nat.mul_one]
  · have hn : ¬ e * 2 ^ 23 + k < 2 ^ 23 := by omega
    rw [if_neg hn]
    rcases Nat.lt_or_ge k (2 ^ 24) with h24 | h24
    · have h1 : (e * 2 ^ 23 + k) / 2 ^ 23 - 1 = e := by omega
      have h2 : 2 ^ 23 + (e * 2 ^ 23 + k) % 2 ^ 23 = k := by omega
      rw [h1, h2]
    · have h1 : (e * 2 ^ 23 + k) / 2 ^ 23 - 1 = e + 1 := by omega
      have h2 : 2 ^ 23 + (e * 2 ^ 23 + k) % 2 ^ 23 = 2 ^ 23 := by omega
      obtain rfl : k = 2 ^ 24 := by omega
      rw [h1, h2, pow_succ]
      ring

/-- Every bit pattern is a significand and an exponent of the form of `magOfBits_eq`. -/
theorem exists_significand (n : Nat) :
    ∃ e k, n = e * 2 ^ 23 + k ∧ k < 2 ^ 24 ∧ (e = 0 ∨ 2 ^ 23 ≤ k) := by
  rcases Nat.lt_or_ge n (2 ^ 24) with h | h
  · exact ⟨0, n, by omega, h, .inl rfl⟩
  · exact ⟨n / 2 ^ 23 - 1, n % 2 ^ 23 + 2 ^ 23, by omega, by omega, .inr (by omega)⟩

/-- The magnitude bits order the magnitudes. -/
theorem magOfBits_strictMono : StrictMono magOfBits := by
  apply strictMono_nat_of_lt_succ
  intro n
  obtain ⟨e, k, rfl, hk, h⟩ := exists_significand n
  rw [Nat.add_assoc, magOfBits_eq e k (by omega) h, magOfBits_eq e (k + 1) (by omega) (by omega)]
  exact Nat.mul_lt_mul_of_pos_right (Nat.lt_succ_self k) (Nat.two_pow_pos e)

@[simp] theorem magOfBits_zero : magOfBits 0 = 0 := rfl

theorem magOfBits_inf : magOfBits infBits = 2 ^ 277 := by
  rw [show infBits = 253 * 2 ^ 23 + 2 ^ 24 from rfl, magOfBits_eq 253 (2 ^ 24) (by omega) (by omega), ← pow_add]

/-- How `roundMag` cuts `p / q`: quotient and remainder at the place of the last bit kept. -/
theorem roundMag_cut (p q : Nat) (hq : 0 < q) :
    ∃ e k r, p = q * 2 ^ e * k + r ∧ r < q * 2 ^ e ∧ k < 2 ^ 24 ∧ (e = 0 ∨ 2 ^ 23 ≤ k) ∧
      roundMag p q = min (e * 2 ^ 23 +
        if q * 2 ^ e < 2 * r ∨ (2 * r = q * 2 ^ e ∧ k % 2 = 1) then k + 1 else k) infBits := by
  have hd : 0 < q * 2 ^ (Nat.log2 (p / q) - 23) := Nat.mul_pos hq (Nat.two_pow_pos _)
  have hk : p / (q * 2 ^ (Nat.log2 (p / q) - 23)) = p / q / 2 ^ (Nat.log2 (p / q) - 23) :=
    (Nat.div_div_eq_div_mul ..).symm
  refine ⟨Nat.log2 (p / q) - 23, p / (q * 2 ^ (Nat.log2 (p / q) - 23)), p % (q * 2 ^ (Nat.log2 (p / q) - 23)),
    (Nat.div_add_mod ..).symm, Nat.mod_lt _ hd, ?_, ?_, rfl⟩
  · rw [hk, Nat.div_lt_iff_lt_mul (Nat.two_pow_pos _), ← pow_add]
    exact lt_of_lt_of_le Nat.lt_log2_self (Nat.pow_le_pow_right (by omega) (by omega))
  · rcases Nat.lt_or_ge (Nat.log2 (p / q)) 24 with h | h
    · exact .inl (by omega)
    · right
      rw [hk, Nat.le_div_iff_mul_le (Nat.two_pow_pos _), ← pow_add]
      have hne : p / q ≠ 0 := by intro h0; simp [h0] at h
      exact le_trans (Nat.pow_le_pow_right (by omega) (by omega)) (Nat.log2_self_le hne)

theorem roundMag_le_inf (p q : Nat) : roundMag p q ≤ infBits := Nat.min_le_right ..

/-- A value at most a representable one rounds to at most it. -/
theorem roundMag_le_of_le {p q n : Nat} (hq : 0 < q) (h : p ≤ q * magOfBits n) : roundMag p q ≤ n := by
  obtain ⟨e, k, r, hp, hr, hk, hek, hround⟩ := roundMag_cut p q hq
  rw [hround]
  refine le_trans (Nat.min_le_left ..) ?_
  have hm := magOfBits_eq e k (by omega) hek
  have hdk : q * 2 ^ e * k = q * magOfBits (e * 2 ^ 23 + k) := by rw [hm]; ring
  split
  · rename_i hup
    have hlt : q * magOfBits (e * 2 ^ 23 + k) < q * magOfBits n := by omega
    have := magOfBits_strictMono.lt_iff_lt.1 (Nat.lt_of_mul_lt_mul_left hlt)
    omega
  · have hle : q * magOfBits (e * 2 ^ 23 + k) ≤ q * magOfBits n := by omega
    exact magOfBits_strictMono.le_iff_le.1 (Nat.le_of_mul_le_mul_left hle hq)

/-- A value at least a representable one rounds to at least it. -/
theorem le_roundMag_of_le {p q n : Nat} (hq : 0 < q) (hn : n ≤ infBits) (h : q * magOfBits n ≤ p) :
    n ≤ roundMag p q := by
  obtain ⟨e, k, r, hp, hr, hk, hek, hround⟩ := roundMag_cut p q hq
  rw [hround]
  refine Nat.le_min.2 ⟨?_, hn⟩
  have hm := magOfBits_eq e (k + 1) (by omega) (by omega)
  have hlt : q * magOfBits n < q * magOfBits (e * 2 ^ 23 + (k + 1)) := by
    rw [hm]
    calc q * magOfBits n ≤ p := h
      _ < q * 2 ^ e * k + q * 2 ^ e := by omega
      _ = q * ((k + 1) * 2 ^ e) := by ring
  have := magOfBits_strictMono.lt_iff_lt.1 (Nat.lt_of_mul_lt_mul_left hlt)
  split <;> omega

/-- A representable value rounds to itself (R11: correct rounding). -/
theorem roundMag_exact {q n : Nat} (hq : 0 < q) (hn : n ≤ infBits) : roundMag (q * magOfBits n) q = n :=
  le_antisymm (roundMag_le_of_le hq (Nat.le_refl _)) (le_roundMag_of_le hq hn (Nat.le_refl _))

/-- Rounding keeps the order of two values of one denominator. -/
theorem roundMag_mono {p p' q : Nat} (hq : 0 < q) (h : p ≤ p') : roundMag p q ≤ roundMag p' q := by
  obtain ⟨e, k, r, hp, hr, hk, hek, hround⟩ := roundMag_cut p q hq
  obtain ⟨e', k', r', hp', hr', hk', hek', hround'⟩ := roundMag_cut p' q hq
  have hm := magOfBits_eq e k (by omega) hek
  have hm' := magOfBits_eq e' (k' + 1) (by omega) (by omega)
  have hlt : q * magOfBits (e * 2 ^ 23 + k) < q * magOfBits (e' * 2 ^ 23 + (k' + 1)) := by
    rw [hm, hm']
    calc q * (k * 2 ^ e) = q * 2 ^ e * k := by ring
      _ ≤ p := by omega
      _ ≤ p' := h
      _ < q * 2 ^ e' * k' + q * 2 ^ e' := by omega
      _ = q * ((k' + 1) * 2 ^ e') := by ring
  have hle := magOfBits_strictMono.lt_iff_lt.1 (Nat.lt_of_mul_lt_mul_left hlt)
  rw [hround, hround']
  refine min_le_min_right _ ?_
  rcases Nat.lt_or_ge (e * 2 ^ 23 + k) (e' * 2 ^ 23 + k') with hn | hn
  · split <;> split <;> omega
  · obtain rfl : e = e' := by omega
    obtain rfl : k = k' := by omega
    have hrr : r ≤ r' := by omega
    split <;> split <;> omega

/-! The parts of a pattern. -/

theorem fBits_lt (a : F32) : fBits a < 2 ^ 31 := Nat.mod_lt _ (by omega)

theorem fBits_mkF32 (neg : Bool) {b : Nat} (h : b < 2 ^ 31) : fBits (mkF32 neg b) = b := by
  cases neg <;> simp only [fBits, mkF32, BitVec.toNat_ofNat] <;> simp <;> omega

theorem fSign_mkF32 (neg : Bool) {b : Nat} (h : b < 2 ^ 31) : fSign (mkF32 neg b) = neg := by
  cases neg <;> simp only [fSign, mkF32, BitVec.msb_eq_decide, BitVec.toNat_ofNat] <;> simp <;> omega

/-- A pattern is its sign and its magnitude bits. -/
theorem mkF32_parts (a : F32) : mkF32 (fSign a) (fBits a) = a := by
  have h := a.isLt
  apply BitVec.eq_of_toNat_eq
  simp only [mkF32, fSign, fBits, BitVec.msb_eq_decide, BitVec.toNat_ofNat, decide_eq_true_eq]
  split <;> omega

theorem infBits_lt : infBits < 2 ^ 31 := by decide

theorem natAbs_fVal (a : F32) : (fVal a).natAbs = fMag a := by
  unfold fVal; split <;> simp

theorem isFinite_iff (a : F32) : isFinite a = true ↔ fBits a < infBits := by simp [isFinite]

theorem isFinite_not_nan {a : F32} (h : isFinite a = true) : isNaN a = false := by
  simp only [isFinite_iff] at h; simp [isNaN]; omega

theorem isFinite_not_inf {a : F32} (h : isFinite a = true) : isInf a = false := by
  simp only [isFinite_iff] at h; simp [isInf]; omega

/-- A rounded magnitude with a sign: finite as soon as it is at most a finite representable one. -/
theorem rounded_finite {neg : Bool} {p q n : Nat} (hq : 0 < q) (hn : n < infBits) (h : p ≤ q * magOfBits n) :
    isFinite (mkF32 neg (roundMag p q)) = true ∧ fMag (mkF32 neg (roundMag p q)) ≤ magOfBits n := by
  have hr := roundMag_le_of_le hq h
  have hb : roundMag p q < 2 ^ 31 := by have := infBits_lt; omega
  constructor
  · rw [isFinite_iff, fBits_mkF32 _ hb]; omega
  · rw [fMag, fBits_mkF32 _ hb]; exact magOfBits_strictMono.monotone hr

/-- A sum that is at most a finite representable value in magnitude is finite and at most that value. -/
theorem fadd_bound {a b : F32} {n : Nat} (ha : isFinite a = true) (hb : isFinite b = true) (hn : n < infBits)
    (h : (fVal a + fVal b).natAbs ≤ magOfBits n) :
    isFinite (fadd a b) = true ∧ fMag (fadd a b) ≤ magOfBits n := by
  simp only [fadd, isFinite_not_nan ha, isFinite_not_nan hb, isFinite_not_inf ha, isFinite_not_inf hb]
  simp only [Bool.or_self, Bool.false_eq_true, if_false]
  split
  · constructor
    · rw [isFinite_iff, fBits_mkF32 _ (by omega)]; decide
    · rw [fMag, fBits_mkF32 _ (by omega)]; simp
  · exact rounded_finite (by omega) hn (by simpa using h)

/-- A product that is at most a finite representable value in magnitude is finite and at most that value. -/
theorem fmul_bound {a b : F32} {n : Nat} (ha : isFinite a = true) (hb : isFinite b = true) (hn : n < infBits)
    (h : fMag a * fMag b ≤ 2 ^ 149 * magOfBits n) :
    isFinite (fmul a b) = true ∧ fMag (fmul a b) ≤ magOfBits n := by
  simp only [fmul, isFinite_not_nan ha, isFinite_not_nan hb, isFinite_not_inf ha, isFinite_not_inf hb]
  simp only [Bool.or_self, Bool.false_eq_true, if_false]
  exact rounded_finite (Nat.two_pow_pos _) hn h

/-- A quotient that is at most a finite representable value in magnitude is finite and at most that value. -/
theorem fdiv_bound {a b : F32} {n : Nat} (ha : isFinite a = true) (hb : isFinite b = true) (h0 : fMag b ≠ 0)
    (hn : n < infBits) (h : fMag a * 2 ^ 149 ≤ fMag b * magOfBits n) :
    isFinite (fdiv a b) = true ∧ fMag (fdiv a b) ≤ magOfBits n := by
  simp only [fdiv, isFinite_not_nan ha, isFinite_not_nan hb, isFinite_not_inf ha, isFinite_not_inf hb]
  simp only [Bool.or_self, Bool.false_eq_true, if_false, h0]
  exact rounded_finite (Nat.pos_of_ne_zero h0) hn h

/-- The bits of the integer square root below `n`: the largest root reachable from `r` (R11, `fsqrt`). -/
theorem isqrtFrom_spec (x : Nat) : ∀ n r, r * r ≤ x → x < (r + 2 ^ n) * (r + 2 ^ n) →
    isqrtFrom x n r * isqrtFrom x n r ≤ x ∧ x < (isqrtFrom x n r + 1) * (isqrtFrom x n r + 1)
  | 0, r, h0, h1 => ⟨h0, by simpa [isqrtFrom] using h1⟩
  | n + 1, r, h0, h1 => by
    rw [isqrtFrom]
    split
    · rename_i h
      exact isqrtFrom_spec x n _ h (by rw [Nat.add_assoc, ← two_mul, ← pow_succ']; exact h1)
    · rename_i h
      exact isqrtFrom_spec x n r h0 (by omega)

/-- The integer square root of every number that `fsqrt` meets. -/
theorem isqrt_spec {x : Nat} (h : x < 2 ^ (214 * 2)) : isqrt x * isqrt x ≤ x ∧ x < (isqrt x + 1) * (isqrt x + 1) :=
  isqrtFrom_spec x 214 0 (Nat.zero_le _) (by
    rw [Nat.zero_add, ← pow_two, ← pow_mul]
    exact h)

end Sys2Proof.Machine
end

