-- ==== Sys2Proof/Laws/State.lean ====
section
/-! SUPPORT. What each update of State leaves in each field, one lemma per field per update. -/

namespace Sys2Proof.Machine.State

variable (s : State)

@[simp] theorem withSchedule_status (rest : List Event) : (s.withSchedule rest).status = s.status := rfl
@[simp] theorem withSchedule_config (rest : List Event) : (s.withSchedule rest).config = s.config := rfl
@[simp] theorem withSchedule_retryMax (rest : List Event) : (s.withSchedule rest).retryMax = s.retryMax := rfl
@[simp] theorem withSchedule_calN (rest : List Event) : (s.withSchedule rest).calN = s.calN := rfl
@[simp] theorem withSchedule_alpha (rest : List Event) : (s.withSchedule rest).alpha = s.alpha := rfl
@[simp] theorem withSchedule_beta (rest : List Event) : (s.withSchedule rest).beta = s.beta := rfl
@[simp] theorem withSchedule_accStatTh (rest : List Event) : (s.withSchedule rest).accStatTh = s.accStatTh := rfl
@[simp] theorem withSchedule_gzStatTh (rest : List Event) : (s.withSchedule rest).gzStatTh = s.gzStatTh := rfl
@[simp] theorem withSchedule_orient (rest : List Event) : (s.withSchedule rest).orient = s.orient := rfl
@[simp] theorem withSchedule_offsets (rest : List Event) : (s.withSchedule rest).offsets = s.offsets := rfl
@[simp] theorem withSchedule_seq (rest : List Event) : (s.withSchedule rest).seq = s.seq := rfl
@[simp] theorem withSchedule_env (rest : List Event) : (s.withSchedule rest).env = { s.env with schedule := rest } := rfl

@[simp] theorem respond_status (v : Word) : (s.respond v).status = s.status := rfl
@[simp] theorem respond_config (v : Word) : (s.respond v).config = s.config := rfl
@[simp] theorem respond_retryMax (v : Word) : (s.respond v).retryMax = s.retryMax := rfl
@[simp] theorem respond_calN (v : Word) : (s.respond v).calN = s.calN := rfl
@[simp] theorem respond_alpha (v : Word) : (s.respond v).alpha = s.alpha := rfl
@[simp] theorem respond_beta (v : Word) : (s.respond v).beta = s.beta := rfl
@[simp] theorem respond_accStatTh (v : Word) : (s.respond v).accStatTh = s.accStatTh := rfl
@[simp] theorem respond_gzStatTh (v : Word) : (s.respond v).gzStatTh = s.gzStatTh := rfl
@[simp] theorem respond_orient (v : Word) : (s.respond v).orient = s.orient := rfl
@[simp] theorem respond_offsets (v : Word) : (s.respond v).offsets = s.offsets := rfl
@[simp] theorem respond_seq (v : Word) : (s.respond v).seq = s.seq := rfl
@[simp] theorem respond_env (v : Word) : (s.respond v).env = { s.env with lastRead := some v } := rfl

@[simp] theorem rejectCmd_status : (s.rejectCmd).status = { s.status with cmdRej := true } := rfl
@[simp] theorem rejectCmd_config : (s.rejectCmd).config = s.config := rfl
@[simp] theorem rejectCmd_retryMax : (s.rejectCmd).retryMax = s.retryMax := rfl
@[simp] theorem rejectCmd_calN : (s.rejectCmd).calN = s.calN := rfl
@[simp] theorem rejectCmd_alpha : (s.rejectCmd).alpha = s.alpha := rfl
@[simp] theorem rejectCmd_beta : (s.rejectCmd).beta = s.beta := rfl
@[simp] theorem rejectCmd_accStatTh : (s.rejectCmd).accStatTh = s.accStatTh := rfl
@[simp] theorem rejectCmd_gzStatTh : (s.rejectCmd).gzStatTh = s.gzStatTh := rfl
@[simp] theorem rejectCmd_orient : (s.rejectCmd).orient = s.orient := rfl
@[simp] theorem rejectCmd_offsets : (s.rejectCmd).offsets = s.offsets := rfl
@[simp] theorem rejectCmd_seq : (s.rejectCmd).seq = s.seq := rfl
@[simp] theorem rejectCmd_env : (s.rejectCmd).env = s.env := rfl

@[simp] theorem rejectWrite_status : (s.rejectWrite).status = { s.status with wrRej := true } := rfl
@[simp] theorem rejectWrite_config : (s.rejectWrite).config = s.config := rfl
@[simp] theorem rejectWrite_retryMax : (s.rejectWrite).retryMax = s.retryMax := rfl
@[simp] theorem rejectWrite_calN : (s.rejectWrite).calN = s.calN := rfl
@[simp] theorem rejectWrite_alpha : (s.rejectWrite).alpha = s.alpha := rfl
@[simp] theorem rejectWrite_beta : (s.rejectWrite).beta = s.beta := rfl
@[simp] theorem rejectWrite_accStatTh : (s.rejectWrite).accStatTh = s.accStatTh := rfl
@[simp] theorem rejectWrite_gzStatTh : (s.rejectWrite).gzStatTh = s.gzStatTh := rfl
@[simp] theorem rejectWrite_orient : (s.rejectWrite).orient = s.orient := rfl
@[simp] theorem rejectWrite_offsets : (s.rejectWrite).offsets = s.offsets := rfl
@[simp] theorem rejectWrite_seq : (s.rejectWrite).seq = s.seq := rfl
@[simp] theorem rejectWrite_env : (s.rejectWrite).env = s.env := rfl

@[simp] theorem acknowledge_status (d : Word) : (s.acknowledge d).status = s.status.acknowledge d := rfl
@[simp] theorem acknowledge_config (d : Word) : (s.acknowledge d).config = s.config := rfl
@[simp] theorem acknowledge_retryMax (d : Word) : (s.acknowledge d).retryMax = s.retryMax := rfl
@[simp] theorem acknowledge_calN (d : Word) : (s.acknowledge d).calN = s.calN := rfl
@[simp] theorem acknowledge_alpha (d : Word) : (s.acknowledge d).alpha = s.alpha := rfl
@[simp] theorem acknowledge_beta (d : Word) : (s.acknowledge d).beta = s.beta := rfl
@[simp] theorem acknowledge_accStatTh (d : Word) : (s.acknowledge d).accStatTh = s.accStatTh := rfl
@[simp] theorem acknowledge_gzStatTh (d : Word) : (s.acknowledge d).gzStatTh = s.gzStatTh := rfl
@[simp] theorem acknowledge_orient (d : Word) : (s.acknowledge d).orient = s.orient := rfl
@[simp] theorem acknowledge_offsets (d : Word) : (s.acknowledge d).offsets = s.offsets := rfl
@[simp] theorem acknowledge_seq (d : Word) : (s.acknowledge d).seq = s.seq := rfl
@[simp] theorem acknowledge_env (d : Word) : (s.acknowledge d).env = s.env := rfl

@[simp] theorem complete_status (c : ResultCode) : (s.complete c).status = { s.status with err := c.toErr, done := true } := rfl
@[simp] theorem complete_config (c : ResultCode) : (s.complete c).config = s.config := rfl
@[simp] theorem complete_retryMax (c : ResultCode) : (s.complete c).retryMax = s.retryMax := rfl
@[simp] theorem complete_calN (c : ResultCode) : (s.complete c).calN = s.calN := rfl
@[simp] theorem complete_alpha (c : ResultCode) : (s.complete c).alpha = s.alpha := rfl
@[simp] theorem complete_beta (c : ResultCode) : (s.complete c).beta = s.beta := rfl
@[simp] theorem complete_accStatTh (c : ResultCode) : (s.complete c).accStatTh = s.accStatTh := rfl
@[simp] theorem complete_gzStatTh (c : ResultCode) : (s.complete c).gzStatTh = s.gzStatTh := rfl
@[simp] theorem complete_orient (c : ResultCode) : (s.complete c).orient = s.orient := rfl
@[simp] theorem complete_offsets (c : ResultCode) : (s.complete c).offsets = s.offsets := rfl
@[simp] theorem complete_seq (c : ResultCode) : (s.complete c).seq = { s.seq with phase := .idle } := rfl
@[simp] theorem complete_env (c : ResultCode) : (s.complete c).env = s.env := rfl

@[simp] theorem enterRead_status (p : Phase) : (s.enterRead p).status = s.status := rfl
@[simp] theorem enterRead_config (p : Phase) : (s.enterRead p).config = s.config := rfl
@[simp] theorem enterRead_retryMax (p : Phase) : (s.enterRead p).retryMax = s.retryMax := rfl
@[simp] theorem enterRead_calN (p : Phase) : (s.enterRead p).calN = s.calN := rfl
@[simp] theorem enterRead_alpha (p : Phase) : (s.enterRead p).alpha = s.alpha := rfl
@[simp] theorem enterRead_beta (p : Phase) : (s.enterRead p).beta = s.beta := rfl
@[simp] theorem enterRead_accStatTh (p : Phase) : (s.enterRead p).accStatTh = s.accStatTh := rfl
@[simp] theorem enterRead_gzStatTh (p : Phase) : (s.enterRead p).gzStatTh = s.gzStatTh := rfl
@[simp] theorem enterRead_orient (p : Phase) : (s.enterRead p).orient = s.orient := rfl
@[simp] theorem enterRead_offsets (p : Phase) : (s.enterRead p).offsets = s.offsets := rfl
@[simp] theorem enterRead_seq (p : Phase) : (s.enterRead p).seq = { s.seq with attempt := 0#8, phase := p } := rfl
@[simp] theorem enterRead_env (p : Phase) : (s.enterRead p).env = s.env := rfl

@[simp] theorem acceptCalibrate_status : (s.acceptCalibrate).status = s.status.accept 1#2 := rfl
@[simp] theorem acceptCalibrate_config : (s.acceptCalibrate).config = s.config := rfl
@[simp] theorem acceptCalibrate_retryMax : (s.acceptCalibrate).retryMax = s.retryMax := rfl
@[simp] theorem acceptCalibrate_calN : (s.acceptCalibrate).calN = s.calN := rfl
@[simp] theorem acceptCalibrate_alpha : (s.acceptCalibrate).alpha = s.alpha := rfl
@[simp] theorem acceptCalibrate_beta : (s.acceptCalibrate).beta = s.beta := rfl
@[simp] theorem acceptCalibrate_accStatTh : (s.acceptCalibrate).accStatTh = s.accStatTh := rfl
@[simp] theorem acceptCalibrate_gzStatTh : (s.acceptCalibrate).gzStatTh = s.gzStatTh := rfl
@[simp] theorem acceptCalibrate_orient : (s.acceptCalibrate).orient = s.orient := rfl
@[simp] theorem acceptCalibrate_offsets : (s.acceptCalibrate).offsets = s.offsets := rfl
@[simp] theorem acceptCalibrate_seq : (s.acceptCalibrate).seq = { s.seq with phase := .calGyro, attempt := 0#8, sampleIdx := 0#16, gsum := Vec3.zero, asum := Vec3.zero } := rfl
@[simp] theorem acceptCalibrate_env : (s.acceptCalibrate).env = s.env := rfl

@[simp] theorem addGyroSample_status (x y z : Raw) : (s.addGyroSample x y z).status = s.status := rfl
@[simp] theorem addGyroSample_config (x y z : Raw) : (s.addGyroSample x y z).config = s.config := rfl
@[simp] theorem addGyroSample_retryMax (x y z : Raw) : (s.addGyroSample x y z).retryMax = s.retryMax := rfl
@[simp] theorem addGyroSample_calN (x y z : Raw) : (s.addGyroSample x y z).calN = s.calN := rfl
@[simp] theorem addGyroSample_alpha (x y z : Raw) : (s.addGyroSample x y z).alpha = s.alpha := rfl
@[simp] theorem addGyroSample_beta (x y z : Raw) : (s.addGyroSample x y z).beta = s.beta := rfl
@[simp] theorem addGyroSample_accStatTh (x y z : Raw) : (s.addGyroSample x y z).accStatTh = s.accStatTh := rfl
@[simp] theorem addGyroSample_gzStatTh (x y z : Raw) : (s.addGyroSample x y z).gzStatTh = s.gzStatTh := rfl
@[simp] theorem addGyroSample_orient (x y z : Raw) : (s.addGyroSample x y z).orient = s.orient := rfl
@[simp] theorem addGyroSample_offsets (x y z : Raw) : (s.addGyroSample x y z).offsets = s.offsets := rfl
@[simp] theorem addGyroSample_seq (x y z : Raw) : (s.addGyroSample x y z).seq = { s.seq with gsum := Vec3.map2 fadd s.seq.gsum (s.gyroTriple x y z), attempt := 0#8, phase := .calAccel } := rfl
@[simp] theorem addGyroSample_env (x y z : Raw) : (s.addGyroSample x y z).env = s.env := rfl

@[simp] theorem addAccelSample_status (x y z : Raw) : (s.addAccelSample x y z).status = s.status := rfl
@[simp] theorem addAccelSample_config (x y z : Raw) : (s.addAccelSample x y z).config = s.config := rfl
@[simp] theorem addAccelSample_retryMax (x y z : Raw) : (s.addAccelSample x y z).retryMax = s.retryMax := rfl
@[simp] theorem addAccelSample_calN (x y z : Raw) : (s.addAccelSample x y z).calN = s.calN := rfl
@[simp] theorem addAccelSample_alpha (x y z : Raw) : (s.addAccelSample x y z).alpha = s.alpha := rfl
@[simp] theorem addAccelSample_beta (x y z : Raw) : (s.addAccelSample x y z).beta = s.beta := rfl
@[simp] theorem addAccelSample_accStatTh (x y z : Raw) : (s.addAccelSample x y z).accStatTh = s.accStatTh := rfl
@[simp] theorem addAccelSample_gzStatTh (x y z : Raw) : (s.addAccelSample x y z).gzStatTh = s.gzStatTh := rfl
@[simp] theorem addAccelSample_orient (x y z : Raw) : (s.addAccelSample x y z).orient = s.orient := rfl
@[simp] theorem addAccelSample_offsets (x y z : Raw) : (s.addAccelSample x y z).offsets = s.offsets := rfl
@[simp] theorem addAccelSample_seq (x y z : Raw) : (s.addAccelSample x y z).seq = { s.seq with asum := Vec3.map2 fadd s.seq.asum (s.accelLessGravity x y z), sampleIdx := s.seq.sampleIdx + 1#16 } := rfl
@[simp] theorem addAccelSample_env (x y z : Raw) : (s.addAccelSample x y z).env = s.env := rfl

@[simp] theorem stepCalFinish_status : (s.stepCalFinish).status = { s.status with calValid := true, err := 0#3, done := true } := rfl
@[simp] theorem stepCalFinish_config : (s.stepCalFinish).config = s.config := rfl
@[simp] theorem stepCalFinish_retryMax : (s.stepCalFinish).retryMax = s.retryMax := rfl
@[simp] theorem stepCalFinish_calN : (s.stepCalFinish).calN = s.calN := rfl
@[simp] theorem stepCalFinish_alpha : (s.stepCalFinish).alpha = s.alpha := rfl
@[simp] theorem stepCalFinish_beta : (s.stepCalFinish).beta = s.beta := rfl
@[simp] theorem stepCalFinish_accStatTh : (s.stepCalFinish).accStatTh = s.accStatTh := rfl
@[simp] theorem stepCalFinish_gzStatTh : (s.stepCalFinish).gzStatTh = s.gzStatTh := rfl
@[simp] theorem stepCalFinish_orient : (s.stepCalFinish).orient = s.orient := rfl
@[simp] theorem stepCalFinish_offsets : (s.stepCalFinish).offsets = { gyro := s.seq.gsum.divBy (i2f s.calN.toNat), accel := s.seq.asum.divBy (i2f s.calN.toNat) } := rfl
@[simp] theorem stepCalFinish_seq : (s.stepCalFinish).seq = { s.seq with phase := .idle } := rfl
@[simp] theorem stepCalFinish_env : (s.stepCalFinish).env = s.env := rfl

@[simp] theorem commit_status (o : Orientation) : (s.commit o).status = { s.status with tValid := true, err := 0#3, done := true } := rfl
@[simp] theorem commit_config (o : Orientation) : (s.commit o).config = s.config := rfl
@[simp] theorem commit_retryMax (o : Orientation) : (s.commit o).retryMax = s.retryMax := rfl
@[simp] theorem commit_calN (o : Orientation) : (s.commit o).calN = s.calN := rfl
@[simp] theorem commit_alpha (o : Orientation) : (s.commit o).alpha = s.alpha := rfl
@[simp] theorem commit_beta (o : Orientation) : (s.commit o).beta = s.beta := rfl
@[simp] theorem commit_accStatTh (o : Orientation) : (s.commit o).accStatTh = s.accStatTh := rfl
@[simp] theorem commit_gzStatTh (o : Orientation) : (s.commit o).gzStatTh = s.gzStatTh := rfl
@[simp] theorem commit_orient (o : Orientation) : (s.commit o).orient = o := rfl
@[simp] theorem commit_offsets (o : Orientation) : (s.commit o).offsets = s.offsets := rfl
@[simp] theorem commit_seq (o : Orientation) : (s.commit o).seq = { s.seq with phase := .idle } := rfl
@[simp] theorem commit_env (o : Orientation) : (s.commit o).env = s.env := rfl

@[simp] theorem hardwareReset_status : s.hardwareReset.status = State.reset.status := rfl
@[simp] theorem hardwareReset_config : s.hardwareReset.config = State.reset.config := rfl
@[simp] theorem hardwareReset_retryMax : s.hardwareReset.retryMax = State.reset.retryMax := rfl
@[simp] theorem hardwareReset_calN : s.hardwareReset.calN = State.reset.calN := rfl
@[simp] theorem hardwareReset_alpha : s.hardwareReset.alpha = State.reset.alpha := rfl
@[simp] theorem hardwareReset_beta : s.hardwareReset.beta = State.reset.beta := rfl
@[simp] theorem hardwareReset_accStatTh : s.hardwareReset.accStatTh = State.reset.accStatTh := rfl
@[simp] theorem hardwareReset_gzStatTh : s.hardwareReset.gzStatTh = State.reset.gzStatTh := rfl
@[simp] theorem hardwareReset_orient : s.hardwareReset.orient = State.reset.orient := rfl
@[simp] theorem hardwareReset_offsets : s.hardwareReset.offsets = State.reset.offsets := rfl
@[simp] theorem hardwareReset_seq : s.hardwareReset.seq = State.reset.seq := rfl
@[simp] theorem hardwareReset_env : s.hardwareReset.env = s.env := rfl

@[simp] theorem withSchedule_busy (rest : List Event) : (s.withSchedule rest).busy = s.busy := rfl
@[simp] theorem respond_busy (v : Word) : (s.respond v).busy = s.busy := rfl
@[simp] theorem rejectCmd_busy : s.rejectCmd.busy = s.busy := rfl
@[simp] theorem rejectWrite_busy : s.rejectWrite.busy = s.busy := rfl
@[simp] theorem acknowledge_busy (d : Word) : (s.acknowledge d).busy = s.busy := rfl
@[simp] theorem complete_busy (c : ResultCode) : (s.complete c).busy = false := rfl
@[simp] theorem acceptCalibrate_busy : s.acceptCalibrate.busy = true := rfl
@[simp] theorem stepCalFinish_busy : s.stepCalFinish.busy = false := rfl
@[simp] theorem commit_busy (o : Orientation) : (s.commit o).busy = false := rfl
@[simp] theorem reset_busy : State.reset.busy = false := rfl

theorem busy_eq_true : s.busy = true ↔ s.seq.phase ≠ .idle := by simp [State.busy]
theorem busy_eq_false : s.busy = false ↔ s.seq.phase = .idle := by simp [State.busy]

end Sys2Proof.Machine.State
end

