-- ==== Sys2Proof/Laws/Ops.lean ====
section
/-! SUPPORT. What each shared operation can do, said once: later proofs cite these lemmas instead of
unfolding the operations. -/

namespace Sys2Proof.Machine.State

variable {s t : State}

/-- A gated command is rejected while busy and goes on otherwise (R105, R206). -/
theorem gateCmd_cases (go : State → State) :
    (s.busy = true ∧ s.gateCmd go = s.rejectCmd) ∨ (s.busy = false ∧ s.gateCmd go = go s) := by
  cases h : s.busy <;> simp [gateCmd, h]

/-- A gated configuration write is stored when idle and legal, rejected otherwise (R107, R207). -/
theorem gateConfig_cases (legal : Bool) (store : State → State) :
    (s.busy = false ∧ legal = true ∧ s.gateConfig legal store = store s) ∨
      ((s.busy = true ∨ legal = false) ∧ s.gateConfig legal store = s.rejectWrite) := by
  cases h : s.busy <;> cases legal <;> simp [gateConfig, h]

/-- A sample of the time input takes the first one listed and nothing else (R69). -/
theorem now_eq_some {x : Time} :
    s.now = some (x, t) ↔
      ∃ rest, s.env.clock = x :: rest ∧ t = { s with env := { s.env with clock := rest } } := by
  unfold now
  split <;> rename_i h <;> simp [h, and_assoc, eq_comm]

theorem now_eq_none : s.now = none ↔ s.env.clock = [] := by
  unfold now; split <;> rename_i h <;> simp [h]

/-- A gyro attempt takes the first answer listed and shows its request on the port (R66). -/
theorem sensorRead_gyro_eq_some {a : SensorAnswer} :
    s.sensorRead .gyro = some (a, t) ↔
      ∃ rest, s.env.gyroLink = a :: rest ∧
        t = { s with env := { s.env with gyroLink := rest, attempts := .gyro :: s.env.attempts } } := by
  simp only [sensorRead]
  split <;> rename_i h <;> simp [h, and_assoc, eq_comm]

/-- An accelerometer attempt takes the first answer listed and shows its request on the port (R66). -/
theorem sensorRead_accel_eq_some {a : SensorAnswer} :
    s.sensorRead .accel = some (a, t) ↔
      ∃ rest, s.env.accelLink = a :: rest ∧
        t = { s with env := { s.env with accelLink := rest, attempts := .accel :: s.env.attempts } } := by
  simp only [sensorRead]
  split <;> rename_i h <;> simp [h, and_assoc, eq_comm]

/-- An attempt of either kind changes nothing but the agents' own fields. -/
theorem sensorRead_frame {k : SensorKind} {a : SensorAnswer} (h : s.sensorRead k = some (a, t)) :
    t = { s with env := t.env } ∧ t.env.attempts = k :: s.env.attempts ∧ t.env.clock = s.env.clock ∧
      t.env.schedule = s.env.schedule ∧ t.env.lastRead = s.env.lastRead := by
  cases k
  · obtain ⟨rest, -, rfl⟩ := sensorRead_gyro_eq_some.1 h; simp
  · obtain ⟨rest, -, rfl⟩ := sensorRead_accel_eq_some.1 h; simp

/-- A failed attempt is counted, and ends the command when the count reaches RETRY_MAX (R134, R136). -/
theorem failedAttempt_cases (k : SensorKind) :
    (s.seq.attempt + 1#8 = s.retryMax ∧
        s.failedAttempt k = { s with
          status := { s.status with err := k.exhausted.toErr, done := true }
          seq := { s.seq with attempt := s.seq.attempt + 1#8, phase := .idle } }) ∨
      (s.seq.attempt + 1#8 ≠ s.retryMax ∧
        s.failedAttempt k = { s with seq := { s.seq with attempt := s.seq.attempt + 1#8 } }) := by
  by_cases h : s.seq.attempt + 1#8 = s.retryMax
  · exact .inl ⟨h, by simp only [failedAttempt, h, if_true]; simp [complete]⟩
  · exact .inr ⟨h, by simp [failedAttempt, h]⟩

/-- One step of a bounded-retry read, if it is enabled: the answer is taken, and either the attempt failed
or the success action ran (R133, R135). -/
theorem readTriple_cases {k : SensorKind} {onOk : Raw → Raw → Raw → State → Option State}
    (h : s.readTriple k onOk = some t) :
    (∃ u, s.sensorRead k = some (.err, u) ∧ t = u.failedAttempt k) ∨
      (∃ x y z u, s.sensorRead k = some (.ok x y z, u) ∧ onOk x y z u = some t) := by
  unfold readTriple at h
  split at h
  · cases h
  · rename_i u hr; exact .inl ⟨u, hr, (Option.some.inj h).symm⟩
  · rename_i x y z u hr; exact .inr ⟨x, y, z, u, hr, h⟩

/-- The end of a calibration sample: on to CAL_FINISH, or the time is marked and the delay begins (R140). -/
theorem endSample_cases {x y z : Raw} (h : s.endSample x y z = some t) :
    ((s.addAccelSample x y z).seq.sampleIdx = s.calN ∧
        t = { s.addAccelSample x y z with seq := { (s.addAccelSample x y z).seq with phase := .calFinish } }) ∨
      ((s.addAccelSample x y z).seq.sampleIdx ≠ s.calN ∧
        ∃ m rest, s.env.clock = m :: rest ∧
          t = { s.addAccelSample x y z with
            env := { s.env with clock := rest }
            seq := { (s.addAccelSample x y z).seq with tMark := m, phase := .calDelay } }) := by
  unfold endSample at h
  simp only at h
  split at h
  · rename_i hi; exact .inl ⟨hi, (Option.some.inj h).symm⟩
  · rename_i hi
    split at h
    · cases h
    · rename_i m u hn
      obtain ⟨rest, hc, rfl⟩ := now_eq_some.1 hn
      exact .inr ⟨hi, m, rest, hc, (Option.some.inj h).symm⟩

/-- The step of the inter-sample delay (R141). -/
theorem stepCalDelay_cases (h : s.stepCalDelay = some t) :
    ∃ m rest, s.env.clock = m :: rest ∧
      ((delayOver m s.seq.tMark = true ∧
          t = { s with env := { s.env with clock := rest }, seq := { s.seq with attempt := 0#8, phase := .calGyro } }) ∨
        (delayOver m s.seq.tMark = false ∧ t = { s with env := { s.env with clock := rest } })) := by
  unfold stepCalDelay at h
  split at h
  · cases h
  · rename_i m u hn
    obtain ⟨rest, hc, rfl⟩ := now_eq_some.1 hn
    refine ⟨m, rest, hc, ?_⟩
    cases hd : delayOver m s.seq.tMark
    · exact .inr ⟨rfl, by simpa [hd] using h.symm⟩
    · exact .inl ⟨rfl, by simpa [hd, enterRead] using h.symm⟩

/-- The end of an update: committed, or ended with NUMERIC (R175, R177). -/
theorem finishUpdate_cases {x y z : Raw} (h : s.finishUpdate x y z = some t) :
    ∃ m rest, s.env.clock = m :: rest ∧
      ((∃ o, s.estimate s.seq.acal (s.calGyro x y z) m = some o ∧
          t = ({ s with env := { s.env with clock := rest } } : State).commit o) ∨
        (s.estimate s.seq.acal (s.calGyro x y z) m = none ∧
          t = ({ s with env := { s.env with clock := rest } } : State).complete .numeric)) := by
  unfold finishUpdate at h
  split at h
  · cases h
  · rename_i m u hn
    obtain ⟨rest, hc, rfl⟩ := now_eq_some.1 hn
    refine ⟨m, rest, hc, ?_⟩
    split at h
    · rename_i o ho; exact .inl ⟨o, ho, (Option.some.inj h).symm⟩
    · rename_i ho; exact .inr ⟨ho, (Option.some.inj h).symm⟩

/-- Acceptance of UPDATE: on to the accelerometer read, or NOT_CALIBRATED at once (R173). -/
theorem acceptUpdate_cases :
    (s.status.calValid = true ∧
        s.acceptUpdate = { s with
          status := s.status.accept 2#2, seq := { s.seq with attempt := 0#8, phase := .updAccel } }) ∨
      (s.status.calValid = false ∧
        s.acceptUpdate = { s with
          status := { s.status with done := true, err := 3#3, lastOp := 2#2 }
          seq := { s.seq with phase := .idle } }) := by
  cases h : s.status.calValid
  · exact .inr ⟨rfl, by simp [acceptUpdate, Status.accept, h, complete, ResultCode.toErr]⟩
  · exact .inl ⟨rfl, by simp [acceptUpdate, Status.accept, h, enterRead]⟩

end Sys2Proof.Machine.State
end

