-- ==== Sys2Proof/Laws/Step.lean ====
section
/-! SUPPORT. What one step can be, and what one host transaction can do to the machine. -/

namespace Sys2Proof.Machine

variable {s t : State}

/-- A step is a host transaction, a block step or hardware reset (R8). -/
theorem step_cases (s : State) :
    (s.env.schedule = [] ∧ step s = .next s.blockStep) ∨
      (∃ p rest, s.env.schedule = .transact p :: rest ∧ step s = exec (decode p) (s.withSchedule rest)) ∨
      (∃ rest, s.env.schedule = .block :: rest ∧ step s = .next (s.withSchedule rest).blockStep) ∨
      (∃ rest, s.env.schedule = .rst :: rest ∧ step s = .next (s.withSchedule rest).hardwareReset) := by
  unfold step
  split <;> rename_i h <;> simp [h]

/-- The block's turn either does nothing or takes the enabled step of its phase. -/
theorem blockStep_cases (s : State) :
    (s.blockAction = none ∧ s.blockStep = s) ∨ (∃ t, s.blockAction = some t ∧ s.blockStep = t) := by
  cases h : s.blockAction <;> simp [State.blockStep, h]

/-- Everything a host transaction can do, in one of ten ways: a read's response, a flag of rejection, an
acknowledgement, a stored configuration value, or the acceptance of a command (R64, R100). -/
theorem exec_cases (i : Instr) (s : State) :
    ∃ t, exec i s = .next t ∧
      ((t = s) ∨ (∃ v, t = s.respond v) ∨ (t = s.rejectCmd) ∨ (t = s.rejectWrite) ∨
        (∃ d, t = s.acknowledge d) ∨
        (s.busy = false ∧
          ((∃ c, t = { s with config := c }) ∨ (∃ v, v ≠ 0#8 ∧ t = { s with retryMax := v }) ∨
            (∃ v, v ≠ 0#16 ∧ t = { s with calN := v }) ∨
            (∃ v, legalCoefficient v = true ∧ (t = { s with alpha := v } ∨ t = { s with beta := v })) ∨
            (∃ v, legalThreshold v = true ∧ (t = { s with accStatTh := v } ∨ t = { s with gzStatTh := v })) ∨
            t = s.acceptCalibrate ∨ t = s.acceptUpdate))) := by
  have hcmd := fun go => State.gateCmd_cases (s := s) go
  have hcfg := fun legal store => State.gateConfig_cases (s := s) legal store
  cases i
  case nop => refine ⟨_, rfl, ?_⟩; rcases hcmd (fun s => s) with ⟨-, h⟩ | ⟨-, h⟩ <;> simp [h]
  case calibrate => refine ⟨_, rfl, ?_⟩; rcases hcmd State.acceptCalibrate with ⟨-, h⟩ | ⟨hb, h⟩ <;> simp [*]
  case update => refine ⟨_, rfl, ?_⟩; rcases hcmd State.acceptUpdate with ⟨-, h⟩ | ⟨hb, h⟩ <;> simp [*]
  case cmdReserved => refine ⟨_, rfl, ?_⟩; rcases hcmd State.rejectCmd with ⟨-, h⟩ | ⟨hb, h⟩ <;> simp [h]
  case wrStatus d => exact ⟨_, rfl, .inr (.inr (.inr (.inr (.inl ⟨d, rfl⟩))))⟩
  case wrConfig d =>
    refine ⟨_, rfl, ?_⟩
    rcases hcfg true (fun s => { s with config := configOfData d }) with ⟨hb, -, h⟩ | ⟨-, h⟩
    · exact .inr (.inr (.inr (.inr (.inr ⟨hb, .inl ⟨_, h⟩⟩))))
    · simp [h]
  case wrRetryMax d =>
    refine ⟨_, rfl, ?_⟩
    rcases hcfg (retryMaxOfData d != 0#8) (fun s => { s with retryMax := retryMaxOfData d }) with ⟨hb, hl, h⟩ | ⟨-, h⟩
    · exact .inr (.inr (.inr (.inr (.inr ⟨hb, .inr (.inl ⟨_, by simpa using hl, h⟩)⟩))))
    · simp [h]
  case wrCalN d =>
    refine ⟨_, rfl, ?_⟩
    rcases hcfg (calNOfData d != 0#16) (fun s => { s with calN := calNOfData d }) with ⟨hb, hl, h⟩ | ⟨-, h⟩
    · exact .inr (.inr (.inr (.inr (.inr ⟨hb, .inr (.inr (.inl ⟨_, by simpa using hl, h⟩))⟩))))
    · simp [h]
  case wrAlpha d =>
    refine ⟨_, rfl, ?_⟩
    rcases hcfg (legalCoefficient d) (fun s => { s with alpha := d }) with ⟨hb, hl, h⟩ | ⟨-, h⟩
    · exact .inr (.inr (.inr (.inr (.inr ⟨hb, .inr (.inr (.inr (.inl ⟨d, hl, .inl h⟩)))⟩))))
    · simp [h]
  case wrBeta d =>
    refine ⟨_, rfl, ?_⟩
    rcases hcfg (legalCoefficient d) (fun s => { s with beta := d }) with ⟨hb, hl, h⟩ | ⟨-, h⟩
    · exact .inr (.inr (.inr (.inr (.inr ⟨hb, .inr (.inr (.inr (.inl ⟨d, hl, .inr h⟩)))⟩))))
    · simp [h]
  case wrAccStatTh d =>
    refine ⟨_, rfl, ?_⟩
    rcases hcfg (legalThreshold d) (fun s => { s with accStatTh := d }) with ⟨hb, hl, h⟩ | ⟨-, h⟩
    · exact .inr (.inr (.inr (.inr (.inr ⟨hb, .inr (.inr (.inr (.inr (.inl ⟨d, hl, .inl h⟩))))⟩))))
    · simp [h]
  case wrGzStatTh d =>
    refine ⟨_, rfl, ?_⟩
    rcases hcfg (legalThreshold d) (fun s => { s with gzStatTh := d }) with ⟨hb, hl, h⟩ | ⟨-, h⟩
    · exact .inr (.inr (.inr (.inr (.inr ⟨hb, .inr (.inr (.inr (.inr (.inl ⟨d, hl, .inr h⟩))))⟩))))
    · simp [h]
  all_goals first
    | exact ⟨_, rfl, .inr (.inl ⟨_, rfl⟩)⟩
    | exact ⟨_, rfl, .inr (.inr (.inr (.inl rfl)))⟩

end Sys2Proof.Machine
end

