-- ==== Sys2Proof/Laws/Block.lean ====
section
/-! SUPPORT. What an enabled block step can do, said once over all phases. -/

namespace Sys2Proof.Machine

variable {s t : State}

/-- An enabled block step is a failed attempt of the kind its phase reads, or the success action of its
phase (R48, R133). -/
theorem blockAction_cases (h : s.blockAction = some t) :
    (∃ k u, s.seq.phase.reads = some k ∧ s.sensorRead k = some (.err, u) ∧ t = u.failedAttempt k) ∨
      (s.seq.phase = .calGyro ∧
        ∃ x y z u, s.sensorRead .gyro = some (.ok x y z, u) ∧ t = u.addGyroSample x y z) ∨
      (s.seq.phase = .calAccel ∧
        ∃ x y z u, s.sensorRead .accel = some (.ok x y z, u) ∧ u.endSample x y z = some t) ∨
      (s.seq.phase = .calDelay ∧ s.stepCalDelay = some t) ∨
      (s.seq.phase = .calFinish ∧ t = s.stepCalFinish) ∨
      (s.seq.phase = .updAccel ∧ ∃ x y z u, s.sensorRead .accel = some (.ok x y z, u) ∧
        t = ({ u with seq := { u.seq with acal := u.calAccel x y z } } : State).enterRead .updGyro) ∨
      (s.seq.phase = .updGyro ∧
        ∃ x y z u, s.sensorRead .gyro = some (.ok x y z, u) ∧ u.finishUpdate x y z = some t) := by
  unfold State.blockAction at h
  split at h <;> rename_i hp
  · cases h
  · rcases State.readTriple_cases h with ⟨u, hr, rfl⟩ | ⟨x, y, z, u, hr, ho⟩
    · exact .inl ⟨.gyro, u, by simp [hp, Phase.reads], hr, rfl⟩
    · exact .inr (.inl ⟨hp, x, y, z, u, hr, (Option.some.inj ho).symm⟩)
  · rcases State.readTriple_cases h with ⟨u, hr, rfl⟩ | ⟨x, y, z, u, hr, ho⟩
    · exact .inl ⟨.accel, u, by simp [hp, Phase.reads], hr, rfl⟩
    · exact .inr (.inr (.inl ⟨hp, x, y, z, u, hr, ho⟩))
  · exact .inr (.inr (.inr (.inl ⟨hp, h⟩)))
  · exact .inr (.inr (.inr (.inr (.inl ⟨hp, (Option.some.inj h).symm⟩))))
  · rcases State.readTriple_cases h with ⟨u, hr, rfl⟩ | ⟨x, y, z, u, hr, ho⟩
    · exact .inl ⟨.accel, u, by simp [hp, Phase.reads], hr, rfl⟩
    · exact .inr (.inr (.inr (.inr (.inr (.inl ⟨hp, x, y, z, u, hr, (Option.some.inj ho).symm⟩)))))
  · rcases State.readTriple_cases h with ⟨u, hr, rfl⟩ | ⟨x, y, z, u, hr, ho⟩
    · exact .inl ⟨.gyro, u, by simp [hp, Phase.reads], hr, rfl⟩
    · exact .inr (.inr (.inr (.inr (.inr (.inr ⟨hp, x, y, z, u, hr, ho⟩)))))

/-- A running phase is not IDLE. -/
theorem busy_of_reads {k : SensorKind} (h : s.seq.phase.reads = some k) : s.busy = true := by
  rw [State.busy_eq_true]; rintro h'; rw [h'] at h; cases h

end Sys2Proof.Machine
end

