-- ==== Sys2Proof/Laws/Decode.lean ====
section
/-! SUPPORT. The fields of a packet, and where the address map and the decoder send them. -/

namespace Sys2Proof

/-- Two packets with the same three fields are the same packet. -/
theorem packet_ext {p q : Packet} (hw : packetWe p = packetWe q) (ha : packetAddr p = packetAddr q)
    (hd : packetData p = packetData q) : p = q := by
  apply BitVec.eq_of_getLsbD_eq
  intro k hk
  rcases Nat.lt_or_ge k 32 with h | h
  · have := congrArg (fun d => d.getLsbD k) hd
    simpa [packetData, h] using this
  · rcases Nat.lt_or_ge k 40 with h' | h'
    · have := congrArg (fun a => a.getLsbD (k - 32)) ha
      have h1 : k - 32 < 8 := by omega
      have h2 : 32 + (k - 32) = k := by omega
      simpa [packetAddr, h1, h2] using this
    · obtain rfl : k = 40 := by omega
      exact hw

/-- The bits of a packet (R80). -/
theorem packet_getLsbD (we : Bool) (a : RegAddr) (d : Word) (k : Nat) :
    (packet we a d).getLsbD k =
      if k < 32 then d.getLsbD k else if k < 40 then a.getLsbD (k - 32) else (decide (k = 40) && we) := by
  refine (BitVec.getLsbD_append (x := BitVec.ofBool we ++ a) (y := d) (i := k)).trans ?_
  rw [BitVec.getLsbD_append]
  by_cases h : k < 32
  · simp [h]
  · by_cases h' : k < 40
    · have : k - 32 < 8 := by omega
      simp [h, h', this]
    · have h1 : ¬ k - 32 < 8 := by omega
      have h2 : k - 32 - 8 = 0 ↔ k = 40 := by omega
      simp [h, h', h1, BitVec.getLsbD_ofBool, h2]

@[simp] theorem packetWe_packet (we : Bool) (a : RegAddr) (d : Word) : packetWe (packet we a d) = we := by
  unfold packetWe
  rw [packet_getLsbD]
  simp

@[simp] theorem packetAddr_packet (we : Bool) (a : RegAddr) (d : Word) : packetAddr (packet we a d) = a := by
  apply BitVec.eq_of_getLsbD_eq
  intro k hk
  have h : 32 + k < 40 := by omega
  simp only [packetAddr, BitVec.getLsbD_extractLsb', packet_getLsbD]
  simp [hk, h]

@[simp] theorem packetData_packet (we : Bool) (a : RegAddr) (d : Word) : packetData (packet we a d) = d := by
  apply BitVec.eq_of_getLsbD_eq
  intro k hk
  simp only [packetData, BitVec.getLsbD_extractLsb', packet_getLsbD]
  simp [hk]

/-- A packet is made of its three fields (R80, R89). -/
theorem packet_fields (p : Packet) : packet (packetWe p) (packetAddr p) (packetData p) = p := by
  apply packet_ext <;> simp

@[simp] theorem decode_packet_read (a : RegAddr) (d : Word) : decode (packet false a d) = decodeRead a := by
  simp [decode]

@[simp] theorem decode_packet_write (a : RegAddr) (d : Word) : decode (packet true a d) = decodeWrite a d := by
  simp [decode]

/-- The address map sends each register's address to it (R61). -/
@[simp] theorem ofAddr_addr (r : Reg) : Reg.ofAddr r.addr = some r := by cases r <;> rfl

/-- An address holds no register exactly when it is misaligned or outside the map (R61, R62). -/
theorem ofAddr_eq_none_iff (a : RegAddr) : Reg.ofAddr a = none ↔ unmappedAddr a = true := by
  revert a; decide

/-- A register's address is the only one that holds it (R61). -/
theorem ofAddr_eq_some_iff (a : RegAddr) (r : Reg) : Reg.ofAddr a = some r ↔ a = r.addr := by
  constructor
  · intro h
    unfold Reg.ofAddr at h
    split at h <;> first | (cases h; rfl) | cases h
  · rintro rfl; exact ofAddr_addr r

/-- A command word is reserved exactly when it is none of the three accepted ones (R82, R83). -/
theorem reservedCommand_iff (d : Word) : reservedCommand d = true ↔ d ≠ 0#32 ∧ d ≠ 1#32 ∧ d ≠ 2#32 := by
  have h8 : (d.extractLsb' 8 24).toNat = d.toNat / 2 ^ 8 % 2 ^ 24 := by simp [Nat.shiftRight_eq_div_pow]
  have h0 : (d.extractLsb' 0 8).toNat = d.toNat % 2 ^ 8 := by simp
  have hd := d.isLt
  simp only [reservedCommand, Bool.or_eq_true, bne_iff_ne, ne_eq, decide_eq_true_eq, BitVec.le_def,
    ← BitVec.toNat_inj, h8, h0, BitVec.toNat_ofNat]
  omega

end Sys2Proof
end

