-- ==== Sys2Proof/Laws/PerInstr.lean ====
section
/-! SUPPORT. The per-instruction family RoundTrip: decoding the encoding of a well-formed instruction gives
it back, one lemma per constructor of `Instr`. -/

namespace Sys2Proof.Laws

/-- Decode and encode agree on `i` (R80 to R89). -/
def RoundTrip.Statement (i : Instr) : Prop := i.wellFormed = true → decode (encode i) = i

theorem RoundTrip.nop : RoundTrip.Statement .nop := fun _ => rfl
theorem RoundTrip.calibrate : RoundTrip.Statement .calibrate := fun _ => rfl
theorem RoundTrip.update : RoundTrip.Statement .update := fun _ => rfl
theorem RoundTrip.rdCmd : RoundTrip.Statement .rdCmd := fun _ => rfl
theorem RoundTrip.rdStatus : RoundTrip.Statement .rdStatus := fun _ => rfl
theorem RoundTrip.rdConfig : RoundTrip.Statement .rdConfig := fun _ => rfl
theorem RoundTrip.rdRetryMax : RoundTrip.Statement .rdRetryMax := fun _ => rfl
theorem RoundTrip.rdCalN : RoundTrip.Statement .rdCalN := fun _ => rfl
theorem RoundTrip.rdAlpha : RoundTrip.Statement .rdAlpha := fun _ => rfl
theorem RoundTrip.rdBeta : RoundTrip.Statement .rdBeta := fun _ => rfl
theorem RoundTrip.rdAccStatTh : RoundTrip.Statement .rdAccStatTh := fun _ => rfl
theorem RoundTrip.rdGzStatTh : RoundTrip.Statement .rdGzStatTh := fun _ => rfl
theorem RoundTrip.rdRoll : RoundTrip.Statement .rdRoll := fun _ => rfl
theorem RoundTrip.rdPitch : RoundTrip.Statement .rdPitch := fun _ => rfl
theorem RoundTrip.rdYaw : RoundTrip.Statement .rdYaw := fun _ => rfl
theorem RoundTrip.rdYawBias : RoundTrip.Statement .rdYawBias := fun _ => rfl
theorem RoundTrip.rdTLastLo : RoundTrip.Statement .rdTLastLo := fun _ => rfl
theorem RoundTrip.rdTLastHi : RoundTrip.Statement .rdTLastHi := fun _ => rfl
theorem RoundTrip.rdGoffX : RoundTrip.Statement .rdGoffX := fun _ => rfl
theorem RoundTrip.rdGoffY : RoundTrip.Statement .rdGoffY := fun _ => rfl
theorem RoundTrip.rdGoffZ : RoundTrip.Statement .rdGoffZ := fun _ => rfl
theorem RoundTrip.rdAoffX : RoundTrip.Statement .rdAoffX := fun _ => rfl
theorem RoundTrip.rdAoffY : RoundTrip.Statement .rdAoffY := fun _ => rfl
theorem RoundTrip.rdAoffZ : RoundTrip.Statement .rdAoffZ := fun _ => rfl
theorem RoundTrip.rdId : RoundTrip.Statement .rdId := fun _ => rfl

theorem RoundTrip.wrStatus (data : Word) : RoundTrip.Statement (.wrStatus data) := by
  simp [RoundTrip.Statement, encode, writePacket, decodeWrite]


theorem RoundTrip.wrConfig (data : Word) : RoundTrip.Statement (.wrConfig data) := by
  simp [RoundTrip.Statement, encode, writePacket, decodeWrite]


theorem RoundTrip.wrRetryMax (data : Word) : RoundTrip.Statement (.wrRetryMax data) := by
  simp [RoundTrip.Statement, encode, writePacket, decodeWrite]


theorem RoundTrip.wrCalN (data : Word) : RoundTrip.Statement (.wrCalN data) := by
  simp [RoundTrip.Statement, encode, writePacket, decodeWrite]


theorem RoundTrip.wrAlpha (data : Word) : RoundTrip.Statement (.wrAlpha data) := by
  simp [RoundTrip.Statement, encode, writePacket, decodeWrite]


theorem RoundTrip.wrBeta (data : Word) : RoundTrip.Statement (.wrBeta data) := by
  simp [RoundTrip.Statement, encode, writePacket, decodeWrite]


theorem RoundTrip.wrAccStatTh (data : Word) : RoundTrip.Statement (.wrAccStatTh data) := by
  simp [RoundTrip.Statement, encode, writePacket, decodeWrite]


theorem RoundTrip.wrGzStatTh (data : Word) : RoundTrip.Statement (.wrGzStatTh data) := by
  simp [RoundTrip.Statement, encode, writePacket, decodeWrite]

theorem RoundTrip.wrRoll : RoundTrip.Statement .wrRoll := fun _ => rfl
theorem RoundTrip.wrPitch : RoundTrip.Statement .wrPitch := fun _ => rfl
theorem RoundTrip.wrYaw : RoundTrip.Statement .wrYaw := fun _ => rfl
theorem RoundTrip.wrYawBias : RoundTrip.Statement .wrYawBias := fun _ => rfl
theorem RoundTrip.wrTLastLo : RoundTrip.Statement .wrTLastLo := fun _ => rfl
theorem RoundTrip.wrTLastHi : RoundTrip.Statement .wrTLastHi := fun _ => rfl
theorem RoundTrip.wrGoffX : RoundTrip.Statement .wrGoffX := fun _ => rfl
theorem RoundTrip.wrGoffY : RoundTrip.Statement .wrGoffY := fun _ => rfl
theorem RoundTrip.wrGoffZ : RoundTrip.Statement .wrGoffZ := fun _ => rfl
theorem RoundTrip.wrAoffX : RoundTrip.Statement .wrAoffX := fun _ => rfl
theorem RoundTrip.wrAoffY : RoundTrip.Statement .wrAoffY := fun _ => rfl
theorem RoundTrip.wrAoffZ : RoundTrip.Statement .wrAoffZ := fun _ => rfl
theorem RoundTrip.wrId : RoundTrip.Statement .wrId := fun _ => rfl
theorem RoundTrip.cmdReserved (data : Word) : RoundTrip.Statement (.cmdReserved data) := by
  intro h
  obtain ⟨h0, h1, h2⟩ := (reservedCommand_iff data).1 h
  simp only [encode, writePacket, decode_packet_write, decodeWrite, ofAddr_addr]
  unfold decodeCommand
  split <;> first | contradiction | rfl

theorem RoundTrip.rdUnmapped (addr : RegAddr) : RoundTrip.Statement (.rdUnmapped addr) := by
  intro h
  simp [encode, decodeRead, (ofAddr_eq_none_iff addr).2 h]

theorem RoundTrip.wrUnmapped (addr : RegAddr) : RoundTrip.Statement (.wrUnmapped addr) := by
  intro h
  simp [encode, decodeWrite, (ofAddr_eq_none_iff addr).2 h]

end Sys2Proof.Laws
end

