-- ==== Sys2Proof/Laws/Rounding.lean ====
section
/-! SUPPORT. What the one rounding function does, said once: `roundMag`, with a sign, is roundTiesToEven. -/

namespace Sys2Proof.Machine

theorem overflowThreshold_pos : 0 < overflowThreshold := by norm_num [overflowThreshold]

/-- The value of a pattern that is put together from a sign and magnitude bits. -/
theorem fVal_mkF32 (neg : Bool) {n : Nat} (h : n < 2 ^ 31) :
    fVal (mkF32 neg n) = if neg then -(magOfBits n : Int) else (magOfBits n : Int) := by
  rw [fVal, fMag, fSign_mkF32 neg h, fBits_mkF32 neg h]

/-- Two magnitudes are never further apart than two values that have them. -/
theorem mag_dist_le (w : F32) (neg : Bool) (v : ℚ) (hv : 0 ≤ v) :
    |(fMag w : ℚ) - v| ≤ |(fVal w : ℚ) - (if neg then -v else v)| := by
  have hw : |(fVal w : ℚ)| = fMag w := by
    rw [← natAbs_fVal w, Nat.cast_natAbs, Int.cast_abs]
  have hs : |(if neg then -v else v)| = v := by split <;> simp [abs_of_nonneg hv]
  have := abs_abs_sub_abs_le (fVal w : ℚ) (if neg then -v else v)
  rwa [hw, hs] at this

/-- Equal distances to a value of one sign force equal values, where the magnitudes are equal. -/
theorem fVal_eq_of_dist {w : F32} {neg : Bool} {n : Nat} {v : ℚ} (hn : n < 2 ^ 31) (hv : 0 ≤ v)
    (hm : fMag w = magOfBits n) (hd : |(fVal w : ℚ) - (if neg then -v else v)| = |(magOfBits n : ℚ) - v|)
    (h0 : v = 0 → magOfBits n = 0) : fVal w = fVal (mkF32 neg n) := by
  rw [fVal_mkF32 neg hn]
  have hmag : (0 : ℚ) ≤ magOfBits n := Nat.cast_nonneg _
  rw [fVal, hm] at hd ⊢
  by_cases hz : magOfBits n = 0
  · simp [hz]
  · have hvpos : 0 < v := lt_of_le_of_ne hv (fun h => hz (h0 h.symm))
    have hmpos : (0 : ℚ) < magOfBits n := by exact_mod_cast Nat.pos_of_ne_zero hz
    have hlt : |(magOfBits n : ℚ) - v| < magOfBits n + v := by
      rw [abs_lt]; constructor <;> linarith
    cases hs : fSign w <;> cases neg <;> simp only [hs, if_true, if_false, Bool.false_eq_true] at hd ⊢
    · push_cast at hd
      rw [show (magOfBits n : ℚ) - -v = magOfBits n + v by ring, abs_of_pos (by linarith)] at hd
      linarith
    · push_cast at hd
      rw [show -(magOfBits n : ℚ) - v = -(magOfBits n + v) by ring, abs_neg, abs_of_pos (by linarith)] at hd
      linarith

/-- `roundMag` between its two neighbours: it takes the nearer one, the one with the even last bit at a tie. -/
theorem roundMag_neighbours (p q : Nat) (hq : 0 < q) :
    ∃ n0 n : Nat, (magOfBits n0 : ℚ) ≤ p / q ∧ (p / q : ℚ) < magOfBits (n0 + 1) ∧
      roundMag p q = min n infBits ∧
      ((n = n0 ∧ ((p / q : ℚ) - magOfBits n0 < magOfBits (n0 + 1) - p / q ∨
          ((p / q : ℚ) - magOfBits n0 = magOfBits (n0 + 1) - p / q ∧ n0 % 2 = 0))) ∨
       (n = n0 + 1 ∧ ((magOfBits (n0 + 1) : ℚ) - p / q < p / q - magOfBits n0 ∨
          ((magOfBits (n0 + 1) : ℚ) - p / q = p / q - magOfBits n0 ∧ n0 % 2 = 1)))) := by
  obtain ⟨e, k, r, hp, hr, hk, hek, hround⟩ := roundMag_cut p q hq
  have hq' : (0 : ℚ) < q := by exact_mod_cast hq
  have hm := magOfBits_eq e k (by omega) hek
  have hm1 : magOfBits (e * 2 ^ 23 + k + 1) = (k + 1) * 2 ^ e := by
    rw [Nat.add_assoc]; exact magOfBits_eq e (k + 1) (by omega) (by omega)
  have hv : (p / q : ℚ) = k * 2 ^ e + r / q := by
    rw [hp]; push_cast; field_simp
  have hr' : (r : ℚ) < q * 2 ^ e := by exact_mod_cast hr
  have hlow : (p / q : ℚ) - magOfBits (e * 2 ^ 23 + k) = r / q := by rw [hv, hm]; push_cast; ring
  have hupp : (magOfBits (e * 2 ^ 23 + k + 1) : ℚ) - p / q = (q * 2 ^ e - r) / q := by
    rw [hv, hm1]; push_cast; field_simp; ring
  have hr0 : (0 : ℚ) ≤ r := Nat.cast_nonneg _
  refine ⟨e * 2 ^ 23 + k, _, ?_, ?_, hround, ?_⟩
  · have : (0 : ℚ) ≤ r / q := by positivity
    linarith
  · have : (0 : ℚ) < (q * 2 ^ e - r) / q := div_pos (by linarith) hq'
    linarith
  · rw [hlow, hupp, div_lt_div_iff_of_pos_right hq', div_lt_div_iff_of_pos_right hq',
      div_left_inj' hq'.ne', div_left_inj' hq'.ne']
    split
    · rename_i h
      refine .inr ⟨by omega, ?_⟩
      rcases h with h | ⟨h, hodd⟩
      · left
        have : (q * 2 ^ e : ℚ) < 2 * r := by exact_mod_cast h
        linarith
      · right
        have : (2 * r : ℚ) = q * 2 ^ e := by exact_mod_cast h
        exact ⟨by linarith, by omega⟩
    · rename_i h
      refine .inl ⟨rfl, ?_⟩
      rcases Nat.lt_or_ge (2 * r) (q * 2 ^ e) with h1 | h1
      · left
        have : (2 * r : ℚ) < q * 2 ^ e := by exact_mod_cast h1
        linarith
      · right
        have h2 : 2 * r = q * 2 ^ e := by omega
        have : (2 * r : ℚ) = q * 2 ^ e := by exact_mod_cast h2
        exact ⟨by linarith, by omega⟩

/-- The magnitude bits next below those of infinity, and the midpoint between the two. -/
theorem overflow_midpoint :
    (magOfBits infBits : ℚ) - overflowThreshold = overflowThreshold - magOfBits (infBits - 1) := by
  rw [magOfBits_inf, show infBits - 1 = 253 * 2 ^ 23 + (2 ^ 24 - 1) from rfl,
    magOfBits_eq 253 (2 ^ 24 - 1) (by omega) (by omega), overflowThreshold]
  have h277 : ((2 ^ 277 : Nat) : ℚ) = 2 ^ 25 * 2 ^ 252 := by rw [← pow_add]; exact Nat.cast_pow 2 277
  have h253 : (((2 ^ 24 - 1) * 2 ^ 253 : Nat) : ℚ) = (2 ^ 24 - 1) * (2 * 2 ^ 252) := by
    rw [← pow_succ', Nat.cast_mul, Nat.cast_pow]
    norm_num
  rw [h277, h253]
  generalize (2 : ℚ) ^ 252 = x
  ring

theorem magOfBits_lt_cast {m n : Nat} : (magOfBits m : ℚ) < magOfBits n ↔ m < n := by
  rw [Nat.cast_lt, magOfBits_strictMono.lt_iff_lt]

theorem magOfBits_le_cast {m n : Nat} : (magOfBits m : ℚ) ≤ magOfBits n ↔ m ≤ n := by
  rw [Nat.cast_le, magOfBits_strictMono.le_iff_le]

/-- R11: a magnitude `p / q` and a sign, rounded by `roundMag`, is roundTiesToEven of the signed value. -/
theorem roundMag_roundsTo (neg : Bool) (p q : Nat) (hq : 0 < q) :
    RoundsTo (if neg then -(p / q : ℚ) else p / q) neg (mkF32 neg (roundMag p q)) := by
  have hb : roundMag p q < 2 ^ 31 := lt_of_le_of_lt (roundMag_le_inf p q) infBits_lt
  have hv : (0 : ℚ) ≤ p / q := by positivity
  obtain ⟨n0, n, hlo, hhi, hround, hcase⟩ := roundMag_neighbours p q hq
  have hmid := overflow_midpoint
  have habs : |(if neg then -(p / q : ℚ) else p / q)| = p / q := by
    split <;> simp [abs_of_nonneg hv]
  have hfin : (p / q : ℚ) < overflowThreshold ↔ n < infBits := by
    have hinf1 : infBits - 1 + 1 = infBits := rfl
    have hlt : (magOfBits (infBits - 1) : ℚ) < magOfBits infBits := magOfBits_lt_cast.2 (by decide)
    rcases Nat.lt_trichotomy n0 (infBits - 1) with h | h | h
    · have h1 : (magOfBits (n0 + 1) : ℚ) ≤ magOfBits (infBits - 1) := magOfBits_le_cast.2 (by omega)
      exact ⟨fun _ => by omega, fun _ => by linarith⟩
    · subst h
      rw [hinf1] at hcase hhi
      have hodd : (infBits - 1) % 2 = 1 := by decide
      rcases hcase with ⟨rfl, h1⟩ | ⟨rfl, h1⟩
      · refine ⟨fun _ => by decide, fun _ => ?_⟩
        rcases h1 with h1 | ⟨_, h1⟩
        · linarith
        · omega
      · refine ⟨fun h2 => ?_, fun h2 => by omega⟩
        rcases h1 with h1 | ⟨h1, _⟩ <;> linarith
    · have h1 : (magOfBits infBits : ℚ) ≤ magOfBits n0 := magOfBits_le_cast.2 (by omega)
      exact ⟨fun _ => by linarith, fun _ => by omega⟩
  refine ⟨?_, fun hsmall => ?_, fun hbig => ?_⟩
  · rw [fSign_mkF32 neg hb]
    cases neg
    · simp [not_lt.2 hv]
    · simp only [if_true]
      split
      · rfl
      · rename_i h
        rw [eq_comm, decide_eq_true_iff]
        exact lt_of_le_of_ne (by linarith) h
  · rw [habs, hfin] at hsmall
    rw [hround, Nat.min_eq_left (by omega)]
    have hn31 : n < 2 ^ 31 := by have := infBits_lt; omega
    refine ⟨by rw [isFinite_iff, fBits_mkF32 neg hn31]; exact hsmall, fun w _ => ?_⟩
    have hdist : |(fVal (mkF32 neg n) : ℚ) - (if neg then -(p / q : ℚ) else p / q)| = |(magOfBits n : ℚ) - p / q| := by
      rw [fVal_mkF32 neg hn31]
      cases neg
      · simp
      · simp only [if_true]
        push_cast
        rw [← abs_neg]
        congr 1
        ring
    have hw := mag_dist_le w neg (p / q) hv
    rw [hdist, fBits_mkF32 neg hn31]
    have hlow : ∀ {m : Nat}, m ≤ n0 → |(magOfBits m : ℚ) - p / q| = p / q - magOfBits m := fun {m} h => by
      have : (magOfBits m : ℚ) ≤ magOfBits n0 := magOfBits_le_cast.2 h
      rw [abs_of_nonpos (by linarith)]; ring
    have hupp : ∀ {m : Nat}, n0 + 1 ≤ m → |(magOfBits m : ℚ) - p / q| = magOfBits m - p / q := fun {m} h => by
      have : (magOfBits (n0 + 1) : ℚ) ≤ magOfBits m := magOfBits_le_cast.2 h
      rw [abs_of_nonneg (by linarith)]
    have heq : fBits w = n → |(magOfBits n : ℚ) - p / q| = |(fVal w : ℚ) - (if neg then -(p / q : ℚ) else p / q)| →
        (p / q = (0 : ℚ) → magOfBits n = 0) → fVal w = fVal (mkF32 neg n) := fun h hd h0 =>
      fVal_eq_of_dist hn31 hv (by rw [fMag, h]) hd.symm h0
    have hz : n = n0 → p / q = (0 : ℚ) → magOfBits n = 0 := fun h h0 => by
      subst h
      have : (magOfBits n : ℚ) ≤ 0 := by linarith
      exact_mod_cast le_antisymm this (Nat.cast_nonneg _)
    rw [fMag] at hw
    rcases hcase with ⟨rfl, hc⟩ | ⟨rfl, hc⟩
    · rw [hlow (le_refl _)] at heq ⊢
      rcases Nat.lt_or_ge n (fBits w) with hmw | hmw
      · rw [hupp hmw] at hw
        have hle : (magOfBits (n + 1) : ℚ) ≤ magOfBits (fBits w) := magOfBits_le_cast.2 hmw
        rcases hc with hc | ⟨hc, hev⟩
        · exact ⟨by linarith, fun _ hd => by linarith⟩
        · exact ⟨by linarith, fun _ _ => hev⟩
      · rw [hlow hmw] at hw
        have hle : (magOfBits (fBits w) : ℚ) ≤ magOfBits n := magOfBits_le_cast.2 hmw
        refine ⟨by linarith, fun hne hd => absurd (heq ?_ hd (hz rfl)) hne⟩
        have : (magOfBits n : ℚ) ≤ magOfBits (fBits w) := by linarith
        exact le_antisymm hmw (magOfBits_le_cast.1 this)
    · rw [hupp (le_refl _)] at heq ⊢
      rcases Nat.lt_or_ge n0 (fBits w) with hmw | hmw
      · rw [hupp hmw] at hw
        have hle : (magOfBits (n0 + 1) : ℚ) ≤ magOfBits (fBits w) := magOfBits_le_cast.2 hmw
        refine ⟨by linarith, fun hne hd => absurd (heq ?_ hd fun h0 => ?_) hne⟩
        · have : (magOfBits (fBits w) : ℚ) ≤ magOfBits (n0 + 1) := by linarith
          exact le_antisymm (magOfBits_le_cast.1 this) hmw
        · have hm0 : (0 : ℚ) ≤ magOfBits n0 := Nat.cast_nonneg _
          rcases hc with hc | ⟨hc, _⟩ <;> linarith
      · rw [hlow hmw] at hw
        have hle : (magOfBits (fBits w) : ℚ) ≤ magOfBits n0 := magOfBits_le_cast.2 hmw
        rcases hc with hc | ⟨hc, hodd⟩
        · exact ⟨by linarith, fun _ hd => by linarith⟩
        · exact ⟨by linarith, fun _ _ => by omega⟩
  · rw [habs] at hbig
    have hn : infBits ≤ n := by
      by_contra h
      exact absurd (hfin.2 (by omega)) (not_lt.2 hbig)
    rw [hround, Nat.min_eq_right hn]
    simp [isInf, fBits_mkF32 neg infBits_lt]

/-- An exact zero keeps the sign it is given. -/
theorem mkF32_zero_roundsTo (zeroSign : Bool) : RoundsTo 0 zeroSign (mkF32 zeroSign 0) := by
  have h := roundMag_roundsTo zeroSign 0 1 (by omega)
  rw [show roundMag 0 1 = 0 by decide] at h
  simpa using h

/-- What a sign for zero says is not asked of an exact value that is not 0. -/
theorem RoundsTo.of_ne_zero {exact : ℚ} {z z' : Bool} {r : F32} (h : RoundsTo exact z r) (h0 : exact ≠ 0) :
    RoundsTo exact z' r :=
  ⟨by rw [if_neg h0]; exact h.1.trans (if_neg h0), h.2⟩

/-- `ofExact` is roundTiesToEven of an exact value in units of 2^-149, with +0.0 for 0 (R11). -/
theorem ofExact_roundsTo (v : Int) : RoundsTo (v : ℚ) false (ofExact v) := by
  by_cases h : v = 0
  · subst h
    simpa [ofExact, show roundMag 0 1 = 0 by decide] using mkF32_zero_roundsTo false
  · have hv : (if decide (v < 0) = true then -((v.natAbs : ℚ) / (1 : Nat)) else (v.natAbs : ℚ) / (1 : Nat)) = v := by
      rw [Nat.cast_natAbs, Int.cast_abs]
      by_cases hneg : v < 0
      · have : (v : ℚ) < 0 := by exact_mod_cast hneg
        simp [hneg, abs_of_neg this]
      · have : (0 : ℚ) ≤ v := by exact_mod_cast not_lt.1 hneg
        simp [hneg, abs_of_nonneg this]
    have hr := roundMag_roundsTo (decide (v < 0)) v.natAbs 1 (by omega)
    rw [hv] at hr
    exact hr.of_ne_zero (by exact_mod_cast h)

/-! The patterns that are no finite value. -/

theorem isNaN_nanOf (op : Config.FloatOp) (a b : F32) : isNaN (nanOf op a b) = true := by
  have h : 0x7FC00000 + (Config.nanBits op a b).toNat % 2 ^ 22 < 2 ^ 31 := by omega
  unfold nanOf isNaN
  rw [decide_eq_true_iff, fBits_mkF32 _ h, infBits]
  omega

theorem isInf_mkF32 (neg : Bool) : isInf (mkF32 neg infBits) = true := by
  simp [isInf, fBits_mkF32 neg infBits_lt]

theorem fMag_of_isInf {a : F32} (h : isInf a = true) : fMag a = magOfBits infBits :=
  congrArg magOfBits (beq_iff_eq.1 h)

theorem isFinite_of_fMag {a : F32} (h : fMag a = 0) : isFinite a = true := by
  have h0 : fBits a = 0 := magOfBits_strictMono.injective h
  rw [isFinite_iff, h0]
  decide

end Sys2Proof.Machine
end

