-- ==== Sys2Proof/Tests/Slice0.lean ====
section
/-! SUPPORT. The model's own tests. Every expected value is the spec's: a vector of spec/95_test_vectors.md,
named where it is used, or a word written out from the encoding of spec/30_encoding.md. -/

open Sys2Proof Sys2Proof.Machine

namespace Sys2Proof.Tests

/-! ### WellFormed: each check refuses an ill-formed term -/

theorem test_commandWordNop_illFormed : (Instr.cmdReserved 0#32).wellFormed = false := by decide
theorem test_commandWordCalibrate_illFormed : (Instr.cmdReserved 1#32).wellFormed = false := by decide
theorem test_commandWordUpdate_illFormed : (Instr.cmdReserved 2#32).wellFormed = false := by decide
theorem test_readOfMappedAddress_illFormed : (Instr.rdUnmapped 0x54#8).wellFormed = false := by decide
theorem test_writeOfMappedAddress_illFormed : (Instr.wrUnmapped 0x00#8).wellFormed = false := by decide

/-- Boundary values of the three checks. -/
theorem test_boundaryOperands_wellFormed :
    (Instr.cmdReserved 3#32).wellFormed = true ∧ (Instr.cmdReserved 0x100#32).wellFormed = true ∧
    (Instr.rdUnmapped 0x58#8).wellFormed = true ∧ (Instr.rdUnmapped 0x53#8).wellFormed = true ∧
    (Instr.wrUnmapped 0xFF#8).wellFormed = true ∧ (Instr.wrUnmapped 0x01#8).wellFormed = true := by decide

/-! ### Decoding: words written out from R80, R83, R89 and the address map R61 -/

/-- E1 to E5. -/
theorem test_decodeCommands :
    decode 0x10000000000#41 = .nop ∧ decode 0x10000000001#41 = .calibrate ∧
    decode 0x10000000002#41 = .update ∧ decode 0x10000000003#41 = .cmdReserved 3#32 ∧
    decode 0x10000000101#41 = .cmdReserved 0x101#32 := by decide

theorem test_decodeConfigurationReads :
    decode 0x00000000000#41 = .rdCmd ∧ decode 0x00400000000#41 = .rdStatus ∧
    decode 0x00800000000#41 = .rdConfig ∧ decode 0x00C00000000#41 = .rdRetryMax ∧
    decode 0x01000000000#41 = .rdCalN ∧ decode 0x01400000000#41 = .rdAlpha ∧
    decode 0x01800000000#41 = .rdBeta ∧ decode 0x01C00000000#41 = .rdAccStatTh ∧
    decode 0x02000000000#41 = .rdGzStatTh := by decide

/-- E9, E10, E15 among them. -/
theorem test_decodeResultReads :
    decode 0x02400000000#41 = .rdRoll ∧ decode 0x024DEADBEEF#41 = .rdRoll ∧
    decode 0x02800000000#41 = .rdPitch ∧ decode 0x02C00000000#41 = .rdYaw ∧
    decode 0x03000000000#41 = .rdYawBias ∧ decode 0x03400000000#41 = .rdTLastLo ∧
    decode 0x03800000000#41 = .rdTLastHi ∧ decode 0x03C00000000#41 = .rdGoffX ∧
    decode 0x04000000000#41 = .rdGoffY ∧ decode 0x04400000000#41 = .rdGoffZ ∧
    decode 0x04800000000#41 = .rdAoffX ∧ decode 0x04C00000000#41 = .rdAoffY ∧
    decode 0x05000000000#41 = .rdAoffZ ∧ decode 0x05400000000#41 = .rdId := by decide

/-- E6 to E8, and writes of the programs P1, P2, P5. -/
theorem test_decodeConfigurationWrites :
    decode 0x10400000308#41 = .wrStatus 0x308#32 ∧ decode 0x10800000015#41 = .wrConfig 0x15#32 ∧
    decode 0x10C00000003#41 = .wrRetryMax 3#32 ∧ decode 0x11000000004#41 = .wrCalN 4#32 ∧
    decode 0x1143F7AE148#41 = .wrAlpha 0x3F7AE148#32 ∧ decode 0x1183C23D70A#41 = .wrBeta 0x3C23D70A#32 ∧
    decode 0x11C3D4CCCCD#41 = .wrAccStatTh 0x3D4CCCCD#32 ∧
    decode 0x1203F000000#41 = .wrGzStatTh 0x3F000000#32 := by decide

/-- H23 and E14 among them. -/
theorem test_decodeReadOnlyWrites :
    decode 0x12442340000#41 = .wrRoll ∧ decode 0x12800000000#41 = .wrPitch ∧
    decode 0x12C00000000#41 = .wrYaw ∧ decode 0x13000000000#41 = .wrYawBias ∧
    decode 0x13400000000#41 = .wrTLastLo ∧ decode 0x13800000000#41 = .wrTLastHi ∧
    decode 0x13C00000000#41 = .wrGoffX ∧ decode 0x14000000000#41 = .wrGoffY ∧
    decode 0x14400000000#41 = .wrGoffZ ∧ decode 0x14800000000#41 = .wrAoffX ∧
    decode 0x14C00000000#41 = .wrAoffY ∧ decode 0x15000000000#41 = .wrAoffZ ∧
    decode 0x15400000000#41 = .wrId := by decide

/-- E11 to E13, and `wr 0x11, 5` of H24. -/
theorem test_decodeUnmapped :
    decode 0x02500000000#41 = .rdUnmapped 0x25#8 ∧ decode 0x05800000000#41 = .rdUnmapped 0x58#8 ∧
    decode 0x1FC00000001#41 = .wrUnmapped 0xFC#8 ∧ decode 0x11100000005#41 = .wrUnmapped 0x11#8 := by decide

/-- The host's numbering of the bits, and the refusal of a number wider than a packet. -/
theorem test_decodeTableWord :
    decodeTableWord 48 0x10000000001 = some .calibrate ∧ decodeTableWord 48 0x024DEADBEEF = some .rdRoll ∧
    decodeTableWord 48 0x20000000000 = none := by decide

/-- The encodings of R88 and R89. -/
theorem test_encode :
    encode .calibrate = 0x10000000001#41 ∧ encode (.wrStatus 0x308#32) = 0x10400000308#41 ∧
    encode (.wrAlpha 0x3F7AE148#32) = 0x1143F7AE148#41 ∧ encode .rdRoll = 0x02400000000#41 := by decide

/-! ### Small states and one step -/

/-- The state after a step; the state itself where the step answers no next state. -/
def after (s : State) : State :=
  match step s with
  | .next t => t
  | .fault _ => s
  | .refused _ => s

/-- The state after the host's transaction `p`. -/
def host (s : State) (p : Nat) : State := after (s.withFetchWord 48 p)

/-- The response to the read packet `p`. -/
def response (s : State) (p : Nat) : Option Word := (host s p).env.lastRead

/-- `s` with these events to come. -/
def scheduled (s : State) (es : List Event) : State := { s with env := { s.env with schedule := es } }

/-- `s` in phase `ph`. -/
def inPhase (s : State) (ph : Phase) : State := { s with seq := { s.seq with phase := ph } }

/-- `s` with these answers and time samples to come. -/
def fed (s : State) (gyro accel : List SensorAnswer) (times : List Time) : State :=
  { s with env := { s.env with gyroLink := gyro, accelLink := accel, clock := times } }

/-- An answer `Ok(x, y, z)`. -/
def triple (x y z : Int) : SensorAnswer := .ok (BitVec.ofInt 16 x) (BitVec.ofInt 16 y) (BitVec.ofInt 16 z)

/-- The start state of section 2.7: calibrated with offsets +0.0, T_VALID = 1, T_LAST = 0; here with the
DONE, LAST_OP of a completed UPDATE cleared. -/
def ready : State :=
  { State.reset with status := { Status.reset with calValid := true, tValid := true } }

/-- STATUS as the fields of a word are set, for H7 and H8. -/
def calibratedDone : State :=
  { State.reset with status := { Status.reset with calValid := true, done := true, lastOp := 1#2 } }

/-- A running CALIBRATE, for H25 to H28. -/
def calibrating : State := host State.reset 0x10000000001

/-- UPDATE with its two reads answered and `t` as its time sample. -/
def updated (s : State) (gyro accel : SensorAnswer) (t : Time) : State :=
  (host (fed s [gyro] [accel] [t]) 0x10000000002).blockStep.blockStep

/-! #### Reads -/

/-- H1, H3, H4. -/
theorem test_readStatusIdCmd :
    response State.reset 0x00400000000 = some 0#32 ∧ response State.reset 0x05400000000 = some 0x43464931#32 ∧
    response State.reset 0x00000000000 = some 0#32 := by decide

/-- H2. -/
theorem test_readDefaults :
    response State.reset 0x01400000000 = some 0x3F7AE148#32 ∧
    response State.reset 0x00C00000000 = some 0x32#32 ∧ response State.reset 0x01000000000 = some 0x1F4#32 ∧
    response State.reset 0x01800000000 = some 0#32 ∧ response State.reset 0x01C00000000 = some 0#32 ∧
    response State.reset 0x02000000000 = some 0#32 ∧ response State.reset 0x00800000000 = some 0#32 := by decide

/-- A state whose result registers all differ. -/
def distinct : State :=
  { ready with
    orient := { roll := 1#32, pitch := 2#32, yaw := 3#32, yawBias := 4#32, tLast := 0x0000000600000005#64 }
    offsets := { gyro := ⟨7#32, 8#32, 9#32⟩, accel := ⟨10#32, 11#32, 12#32⟩ } }

/-- R101: each read of a result register returns that register. -/
theorem test_readResults :
    [0x024, 0x028, 0x02C, 0x030, 0x034, 0x038, 0x03C, 0x040, 0x044, 0x048, 0x04C, 0x050].map
      (fun a => response distinct (a * 2 ^ 32)) =
    [1, 2, 3, 4, 5, 6, 7, 8, 9, 10, 11, 12].map fun n => some (BitVec.ofNat 32 n) := by decide

/-- R101: CONFIG reads its fields in place; R104, H5: unmapped and misaligned addresses read 0. -/
theorem test_readConfigAndUnmapped :
    response { ready with config := ⟨2#2, 1#2, true⟩ } 0x00800000000 = some 0x16#32 ∧
    response distinct 0x08000000000 = some 0#32 ∧ response distinct 0x02500000000 = some 0#32 := by decide

/-- R101: STATUS of a running CALIBRATE. -/
theorem test_readStatusBusy : response calibrating 0x00400000000 = some 0x1001#32 := by decide

/-! #### Writes -/

/-- H7. -/
theorem test_writeStatusClears :
    let s := { calibratedDone with status := { calibratedDone.status with cmdRej := true } }
    s.statusWord = 0x110A#32 ∧ (host s 0x10400000308).statusWord = 0x1002#32 := by decide

/-- H8: bit 3 is 0 in DATA, other bits are ignored. -/
theorem test_writeStatusKeeps : (host calibratedDone 0x104FFFFFFF7).statusWord = 0x100A#32 := by decide

/-- H9. -/
theorem test_writeConfigKeepsFields : (host State.reset 0x108FFFFFFFF).readReg .config = 0x1F#32 := by decide

/-- P4, X3: writing IRQ_EN while DONE = 1 raises `irq` at once. -/
theorem test_writeConfigRaisesIrq :
    calibratedDone.irq = false ∧ (host calibratedDone 0x10800000010).irq = true := by decide

/-- H10, H11: a RETRY_MAX of 0 is rejected. -/
theorem test_writeRetryMaxZero :
    (host State.reset 0x10C00000000).statusWord = 0x200#32 ∧ (host State.reset 0x10C00000100).retryMax = 50#8 := by
  decide

/-- H12. -/
theorem test_writeRetryMaxLowByte :
    (host State.reset 0x10C000001FF).readReg .retryMax = 0xFF#32 ∧
    (host State.reset 0x10C000001FF).statusWord = 0#32 := by decide

/-- H13. -/
theorem test_writeCalNZero :
    (host State.reset 0x11000010000).statusWord = 0x200#32 ∧ (host State.reset 0x11000010000).calN = 500#16 := by
  decide

/-- H14. -/
theorem test_writeCalNLowHalf : (host State.reset 0x110FFFFFFFF).readReg .calN = 0xFFFF#32 := by decide

/-- H15 to H17. -/
theorem test_writeAlpha :
    (host State.reset 0x11480000000).alpha = 0x80000000#32 ∧
    (host State.reset 0x1143F800001).statusWord = 0x200#32 ∧
    (host State.reset 0x1147FC00000).alpha = 0x3F7AE148#32 := by decide +kernel

/-- H25: the value check is not reached while a command runs. -/
theorem test_writeAlphaBusy :
    (host calibrating 0x1143F000000).statusWord = 0x1201#32 ∧
    (host calibrating 0x1143F000000).alpha = 0x3F7AE148#32 := by decide +kernel

/-- H18, H19. -/
theorem test_writeBeta :
    (host State.reset 0x118BF800000).statusWord = 0x200#32 ∧ (host State.reset 0x118BF800000).beta = 0#32 ∧
    (host State.reset 0x1183C23D70A).beta = 0x3C23D70A#32 := by decide +kernel

/-- H20, H21. -/
theorem test_writeAccStatTh :
    (host State.reset 0x11C7F800000).accStatTh = 0x7F800000#32 ∧
    (host State.reset 0x11C80000001).statusWord = 0x200#32 := by decide +kernel

/-- H22, and a NaN refused by R115. -/
theorem test_writeGzStatTh :
    (host State.reset 0x1203F000000).gzStatTh = 0x3F000000#32 ∧
    (host State.reset 0x1207FC00000).statusWord = 0x200#32 := by decide +kernel

/-- H23, H24, E14 and R116: every write to a read-only or unmapped address only sets WR_REJ. -/
theorem test_rejectedWrites :
    [0x024, 0x028, 0x02C, 0x030, 0x034, 0x038, 0x03C, 0x040, 0x044, 0x048, 0x04C, 0x050, 0x054, 0x011, 0x0FC].map
      (fun a => host distinct ((0x100 + a) * 2 ^ 32 + 5)) =
    List.replicate 15 { distinct with status := { distinct.status with wrRej := true } } := by decide

/-! #### Commands -/

/-- H6, H27. -/
theorem test_nop : host State.reset 0x10000000000 = State.reset ∧
    (host calibrating 0x10000000000).statusWord = 0x1101#32 := by decide

/-- H29, H30, X6: rejected, idle or busy. -/
theorem test_reservedCommands :
    (host State.reset 0x10000000103).statusWord = 0x100#32 ∧
    (host State.reset 0x100000000FF).statusWord = 0x100#32 ∧
    (host calibrating 0x10000000103).statusWord = 0x1101#32 := by decide

/-- P1: acceptance of CALIBRATE; RS1: hardware reset in the middle of it. -/
theorem test_calibrateAccepted :
    calibrating.statusWord = 0x1001#32 ∧ calibrating.seq.phase = .calGyro ∧
    after (scheduled calibrating [.rst]) = State.reset := by decide

/-- H28, R105: ACK while busy leaves the command alone; a second CALIBRATE is rejected. -/
theorem test_calibrateBusy :
    (host calibrating 0x10400000308).statusWord = 0x1001#32 ∧
    (host calibrating 0x10000000001).statusWord = 0x1101#32 := by decide

/-- U22, RS3, X7: without a calibration UPDATE completes at acceptance. -/
theorem test_updateNotCalibrated :
    (host (fed State.reset [.err] [.err] [0#64]) 0x10000000002).statusWord = 0x2038#32 ∧
    (host (fed State.reset [.err] [.err] [0#64]) 0x10000000002).env.attempts = [] := by decide

/-- P1, X4: acceptance of UPDATE clears DONE; H26: rejected while busy. -/
theorem test_updateAccepted :
    (host calibratedDone 0x10000000002).statusWord = 0x2003#32 ∧
    (host calibrating 0x10000000002).statusWord = 0x1101#32 := by decide

/-! #### Conversions (2.3) -/

/-- CV1 to CV5a. -/
theorem test_convGyro :
    [convGyro 1310#16 0#2, convGyro 0x8000#16 0#2, convGyro 0x7FFF#16 3#2, convGyro 1#16 2#2, convGyro 655#16 1#2,
      convGyro 0#16 0#2, convGyro 0xFFFF#16 0#2] =
    [0x41200000#32, 0xC37A232D#32, 0x44F9BF9C#32, 0x3CF9C190#32, 0x41200000#32, 0#32, 0xBBFA232D#32] := by
  decide +kernel

/-- CV6 to CV10. -/
theorem test_convAccel :
    [convAccel 16384#16 0#2, convAccel 0x8000#16 0#2, convAccel 8192#16 1#2, convAccel 1#16 3#2,
      convAccel 0xFFFF#16 0#2] =
    [0x3F800000#32, 0xC0000000#32, 0x3F800000#32, 0x3A000000#32, 0xB8800000#32] := by decide +kernel

/-! #### Wrap (2.6) -/

/-- WR1 to WR6, WR11, WR13, WR16, WR18. -/
theorem test_wrap180 :
    [0x43348000#32, 0xC3348000#32, 0x43B40000#32, 0xC3B40000#32, 0x44070000#32, 0xC4070000#32, 0x80000000#32,
      0x4E6E6B28#32, 0x50DF8476#32, 0x7F800000#32].map (wrap .l180) =
    [some 0xC3338000#32, some 0x43338000#32, some 0#32, some 0#32, some 0x43340000#32, some 0xC3340000#32,
      some 0x80000000#32, some 0xC2A00000#32, some 0x42800000#32, none] := by decide +kernel

/-- WR8, WR9, WR10, WR12, WR17. -/
theorem test_wrap90 :
    [0x42B50000#32, 0x43870000#32, 0xC3870000#32, 0x42C83333#32, 0xCE6E6B28#32].map (wrap .l90) =
    [some 0xC2B30000#32, some 0x42B40000#32, some 0xC2B40000#32, some 0xC29FCCCD#32, some 0x42A00000#32] := by
  decide +kernel

/-! #### Block steps: retries, the delay, the finish (2.4, 2.5) -/

/-- A CALIBRATE of two samples with RETRY_MAX = 3, just accepted. -/
def twoSamples : State := host { State.reset with retryMax := 3#8, calN := 2#16 } 0x10000000001

/-- RT1, RT2: two failures leave the read going, the third ends it with code 1. -/
theorem test_retryExhausted :
    let s := fed twoSamples [.err, .err, .err] [] []
    (s.blockSteps 2).seq.phase = .calGyro ∧ (s.blockSteps 3).statusWord = 0x1018#32 ∧
    (s.blockSteps 3).env.attempts = [.gyro, .gyro, .gyro] := by decide

/-- CA4: the accelerometer read fails three times. -/
theorem test_accelExhausted :
    ((fed twoSamples [.err, .err, triple 0 0 0] [.err, .err, .err] []).blockSteps 6).statusWord = 0x1028#32 := by
  decide +kernel

/-- CA5, CA6: the delay holds at differences 1999 and -500 and is over at 2000. -/
theorem test_delay :
    let s := { inPhase twoSamples .calDelay with seq := { twoSamples.seq with phase := .calDelay, tMark := 1000#64 } }
    (fed s [] [] [2999#64]).blockStep.seq.phase = .calDelay ∧
    (fed s [] [] [500#64]).blockStep.seq.phase = .calDelay ∧
    (fed s [] [] [3000#64]).blockStep.seq.phase = .calGyro := by decide

/-- CA3 with N = 1: three block steps, no time sample. -/
theorem test_calibrateOneSample :
    let s := { State.reset with calN := 1#16, config := ⟨1#2, 1#2, false⟩ }
    let t := (host (fed s [triple 655 0 (-655)] [triple 0 0 8192] []) 0x10000000001).blockSteps 3
    t.offsets = { gyro := ⟨0x41200000#32, 0#32, 0xC1200000#32⟩, accel := ⟨0#32, 0#32, 0#32⟩ } ∧
    t.statusWord = 0x100A#32 := by decide +kernel

/-! #### Updates (2.7) -/

/-- U1: the arctangent of an infinite quotient, the short way around -90. -/
theorem test_update_U1 :
    (updated ready (triple 0 0 0) (triple 0 16384 0) 100000#64).orient =
    { roll := 0x3FE66658#32, pitch := 0#32, yaw := 0#32, yawBias := 0#32, tLast := 100000#64 } := by decide +kernel

/-- U4: the wrap of the difference takes the short way through ±180. -/
theorem test_update_U4 :
    (updated { ready with orient := { ready.orient with roll := 0x43338000#32 } }
      (triple 1310 0 0) (triple 0 0 16384) 100000#64).orient.roll = 0xC32FE8F6#32 := by decide +kernel

/-- U6: an upside-down device (s = -1). -/
theorem test_update_U6 :
    (updated { ready with orient := { ready.orient with roll := 0x432A0000#32 } }
      (triple 0 0 0) (triple 0 1000 (-16384)) 100000#64).orient.roll = 0x432A2151#32 := by decide +kernel

/-- U14: every full scale 3, both rotations and the yaw. -/
theorem test_update_U14 :
    (updated { ready with config := ⟨3#2, 3#2, false⟩ }
      (triple (-32768) 32767 (-32768)) (triple 32767 (-32768) 32767) 100000#64).orient =
    { roll := 0x43237C64#32, pitch := 0x4195948A#32, yaw := 0xC347CE0D#32, yawBias := 0#32, tLast := 100000#64 } := by
  decide +kernel

/-- U18, U19: a stationary update learns the bias, a moving one does not. -/
theorem test_update_bias :
    let s := { ready with beta := 0x3C23D70A#32, accStatTh := 0x3D4CCCCD#32, gzStatTh := 0x3F000000#32 }
    (updated s (triple 0 0 13) (triple 0 0 16384) 100000#64).orient.yawBias = 0x3A82124B#32 ∧
    (updated s (triple 0 0 13) (triple 0 0 16384) 100000#64).orient.yaw = 0x3C20F6A3#32 ∧
    (updated s (triple 0 0 131) (triple 0 0 16384) 100000#64).orient.yawBias = 0#32 := by decide +kernel

/-- U16: a difference of -2^63 ticks is no elapsed time. U17: one of 2^63 - 1 is. -/
theorem test_update_timeEnds :
    (updated ready (triple 1310 0 0) (triple 0 0 16384) 0x8000000000000000#64).orient.roll = 0#32 ∧
    (updated ready (triple 1310 0 0) (triple 0 0 16384) 0x7FFFFFFFFFFFFFFF#64).orient.roll = 0x42AC7AE2#32 := by
  decide +kernel

/-! ### Witnesses: for every statement with hypotheses, states and operands that meet them together

`scheduled`, `fed` and `inPhase` build the states; each `after w` is the next state of `w`'s step. -/

/-- A running UPDATE, just accepted. -/
def updating : State := host ready 0x10000000002

/-- The running UPDATE with its gyro read ahead. -/
def gyroAhead : State := inPhase updating .updGyro

/-- A CALIBRATE of two samples at its finish. -/
def finishing : State :=
  { twoSamples with seq := { twoSamples.seq with phase := .calFinish, sampleIdx := 2#16 } }

theorem witness_DecodeInvertsEncode :
    (Instr.cmdReserved 3#32).wellFormed = true ∧ (Instr.rdUnmapped 0x58#8).wellFormed = true ∧
    (Instr.wrUnmapped 0xFF#8).wellFormed = true ∧ (Instr.wrAlpha 0x3F800000#32).wellFormed = true := by decide

/-- The least and the greatest address of a register that takes its DATA. -/
theorem witness_EncodeKeepsSignificantBits :
    [0x10000000007#41, 0x120FFFFFFFF#41].all (fun p => packetWe p && (packetAddr p).extractLsb' 0 2 == 0#2 &&
      decide (packetAddr p ≤ 0x20#8)) = true := by decide

theorem witness_ReadPacketsIgnoreData :
    let row : OpcodeRow := ⟨"RD_CMD", 0x00000000000#41, 0x1FF00000000#41⟩
    row ∈ opcodeRows ∧ row.pat.getLsbD 40 = false ∧ row.mnemonic ≠ "RD_UNMAPPED" := by decide

theorem witness_StepRunsTheDecodedInstruction :
    (scheduled ready [.transact 0x024DEADBEEF#41, .block]).env.schedule = .transact 0x024DEADBEEF#41 :: [.block] ∧
    Instr.wellFormed .update = true ∧
    (scheduled ready [.transact (encode .update)]).env.schedule = .transact (encode .update) :: [] := by decide

theorem witness_HardwareResetWritesEveryValue :
    (scheduled updating [.rst, .block]).env.schedule = .rst :: [.block] := by decide

/-- One step for each of the three ways in which `irq` rises. -/
theorem witness_InterruptRisesOnlyAtCompletionOrEnable :
    let on := ConfigReg.mk 0#2 0#2 true
    let w1 := { finishing with config := on }
    let w2 := scheduled { State.reset with config := on } [.transact 0x10000000002#41]
    let w3 := scheduled calibratedDone [.transact 0x10800000010#41]
    (step w1 = .next (after w1) ∧ w1.irq = false ∧ (after w1).irq = true) ∧
    (step w2 = .next (after w2) ∧ w2.irq = false ∧ (after w2).irq = true) ∧
    (step w3 = .next (after w3) ∧ w3.irq = false ∧ (after w3).irq = true) :=
  ⟨⟨rfl, by decide +kernel, by decide +kernel⟩, ⟨rfl, by decide, by decide⟩, ⟨rfl, by decide, by decide⟩⟩

/-- The last mapped address, a misaligned one and the first unmapped one. -/
theorem witness_ReadTransactionsCoverTheRegisterSpace :
    [0x05400000000#41, 0x05500000000#41, 0x05800000000#41].all (fun p =>
      (scheduled distinct [.transact p]).env.schedule == [.transact p] && !packetWe p) = true := by decide

/-- Idle and busy states for the statements that tell them apart. -/
theorem witness_ConfigWrite : ready.seq.phase = .idle ∧ calibrating.seq.phase ≠ .idle := by decide

/-- A field of 1, of its greatest value, and of 0 with higher bits set; idle and busy. -/
theorem witness_CountWrites :
    ready.seq.phase = .idle ∧ calibrating.seq.phase ≠ .idle ∧
    (1#32).toNat % 256 ≠ 0 ∧ (0x1FF#32).toNat % 256 ≠ 0 ∧ (0x100#32).toNat % 256 = 0 ∧
    (1#32).toNat % 65536 ≠ 0 ∧ (0xFFFFFFFF#32).toNat % 65536 ≠ 0 ∧ (0x10000#32).toNat % 65536 = 0 := by decide

/-- The ends of the legal range, -0.0, and the first pattern above each. -/
theorem witness_CoefficientWrites :
    let legal := fun d : Word => d.toNat ≤ 0x3F800000 ∨ d = 0x80000000#32
    ready.seq.phase = .idle ∧ calibrating.seq.phase ≠ .idle ∧ legal 0#32 ∧ legal 0x3F800000#32 ∧
    legal 0x80000000#32 ∧ ¬ legal 0x3F800001#32 ∧ ¬ legal 0x80000001#32 ∧ ¬ legal 0x7FFFFFFF#32 := by decide

theorem witness_ThresholdWrites :
    let legal := fun d : Word => d.toNat ≤ 0x7F800000 ∨ d = 0x80000000#32
    ready.seq.phase = .idle ∧ calibrating.seq.phase ≠ .idle ∧ legal 0#32 ∧ legal 0x7F800000#32 ∧
    legal 0x80000000#32 ∧ ¬ legal 0x7F800001#32 ∧ ¬ legal 0x80000001#32 := by decide

theorem witness_ReadOnlyAndUnmappedWritesAreRejected :
    let rows := fun a : RegAddr => [Instr.wrRoll, .wrPitch, .wrYaw, .wrYawBias, .wrTLastLo, .wrTLastHi, .wrGoffX,
      .wrGoffY, .wrGoffZ, .wrAoffX, .wrAoffY, .wrAoffZ, .wrId, .wrUnmapped a]
    Instr.wrRoll ∈ rows 0x58#8 ∧ Instr.wrUnmapped 0xFF#8 ∈ rows 0xFF#8 := by decide

theorem witness_NopAndReservedCommands : ready.seq.phase = .idle ∧ calibrating.seq.phase ≠ .idle := by decide

theorem witness_CalibrateAcceptance : calibratedDone.seq.phase = .idle ∧ updating.seq.phase ≠ .idle := by decide

theorem witness_UpdateAcceptance :
    (calibratedDone.seq.phase = .idle ∧ calibratedDone.status.calValid = true) ∧
    (State.reset.seq.phase = .idle ∧ State.reset.status.calValid = false) ∧ calibrating.seq.phase ≠ .idle := by
  decide

/-- A CMD write with the boundary opcodes 2 and 3 and with a reserved bit set. -/
theorem witness_CommandDispatchOrder :
    [2#32, 3#32, 0x101#32, 0xFFFFFFFF#32].all (fun d =>
      (scheduled ready [.transact (packet true 0x00#8 d)]).env.schedule ==
        .transact (packet true 0x00#8 d) :: []) = true := by decide

theorem witness_TransactionsLeaveARunningCommandAlone :
    let w := scheduled { calibrating with status := calibratedDone.status } [.transact 0x10400000308#41]
    w.busy = true ∧ w.env.schedule = .transact 0x10400000308#41 :: [] ∧ step w = .next (after w) ∧
    w.status.done = true :=
  ⟨by decide, by decide, rfl, by decide⟩

/-- Reset clears both flags; a finish and a commit set them. -/
theorem witness_ValidityFlagsFallOnlyAtReset :
    let w1 := scheduled ready [.rst]
    let w2 := finishing
    let w3 := fed { gyroAhead with status := { gyroAhead.status with tValid := false } } [triple 0 0 0] [] [5#64]
    (step w1 = .next (after w1) ∧ w1.status.calValid = true ∧ (after w1).status.calValid = false ∧
      w1.status.tValid = true ∧ (after w1).status.tValid = false) ∧
    (step w2 = .next (after w2) ∧ w2.status.calValid = false ∧ (after w2).status.calValid = true) ∧
    (step w3 = .next (after w3) ∧ w3.status.tValid = false ∧ (after w3).status.tValid = true) :=
  ⟨⟨rfl, by decide⟩, ⟨rfl, by decide +kernel⟩, ⟨rfl, by decide +kernel⟩⟩

theorem witness_RejectionFlagsAreSticky :
    let w := scheduled { ready with status := { ready.status with cmdRej := true, wrRej := true } }
      [.transact 0x10400000308#41]
    step w = .next (after w) ∧ w.status.cmdRej = true ∧ (after w).status.cmdRej = false ∧
    w.status.wrRej = true ∧ (after w).status.wrRej = false :=
  ⟨rfl, by decide⟩

/-- DONE rises at an exhausted read and at UPDATE uncalibrated; it falls at the acceptance of CALIBRATE. -/
theorem witness_DoneFollowsCompletion :
    let w1 := fed { twoSamples with retryMax := 1#8 } [.err] [] []
    let w2 := scheduled State.reset [.transact 0x10000000002#41]
    let w3 := scheduled calibratedDone [.transact 0x10000000001#41]
    (step w1 = .next (after w1) ∧ w1.status.done = false ∧ (after w1).status.done = true) ∧
    (step w2 = .next (after w2) ∧ w2.status.done = false ∧ (after w2).status.done = true) ∧
    (step w3 = .next (after w3) ∧ w3.status.done = true ∧ (after w3).status.done = false) :=
  ⟨⟨rfl, by decide⟩, ⟨rfl, by decide⟩, ⟨rfl, by decide⟩⟩

theorem witness_OnlyACommitWritesTheOrientation :
    let w := fed gyroAhead [triple 0 0 0] [] [5#64]
    step w = .next (after w) ∧ (after w).orient ≠ w.orient :=
  ⟨rfl, by decide +kernel⟩

theorem witness_OnlyAFinishedCalibrationWritesTheOffsets :
    let w := { finishing with seq := { finishing.seq with gsum := ⟨ONE, ONE, ONE⟩ } }
    step w = .next (after w) ∧ (after w).offsets ≠ w.offsets :=
  ⟨rfl, by decide +kernel⟩

theorem witness_AttemptsOnlyInReadingPhases :
    let w := fed updating [] [triple 0 0 16384] []
    step w = .next (after w) ∧ (after w).env.attempts = [.accel] :=
  ⟨rfl, by decide +kernel⟩

theorem witness_TimeIsSampledAtTwoPointsOnly :
    let w := fed (inPhase twoSamples .calDelay) [] [] [7#64]
    step w = .next (after w) ∧ (after w).env.clock = [] :=
  ⟨rfl, by decide⟩

/-- The first failure, and the one that reaches RETRY_MAX, of either kind. -/
theorem witness_FailedAttemptCountsOrEndsTheCommand :
    let first := fed twoSamples [.err] [] []
    let last := fed { updating with seq := { updating.seq with attempt := 49#8 } } [] [.err] []
    (first.seq.phase = .calGyro ∧ first.env.gyroLink = .err :: [] ∧ first.seq.attempt + 1#8 ≠ first.retryMax) ∧
    (last.seq.phase = .updAccel ∧ last.env.accelLink = .err :: [] ∧ last.seq.attempt + 1#8 = last.retryMax) := by
  decide

theorem witness_ExhaustedReadMakesRetryMaxAttempts :
    let g := fed twoSamples [.err, .err, .err, triple 1 2 3] [] []
    let a := fed { updating with retryMax := 1#8 } [] [.err] []
    (g.seq.phase.reads = some .gyro ∧ g.seq.attempt = 0#8 ∧ g.retryMax ≠ 0#8 ∧
      g.env.gyroLink = List.replicate g.retryMax.toNat .err ++ [triple 1 2 3]) ∧
    (a.seq.phase.reads = some .accel ∧ a.seq.attempt = 0#8 ∧ a.retryMax ≠ 0#8 ∧
      a.env.accelLink = List.replicate a.retryMax.toNat .err ++ []) := by decide

theorem witness_CalGyroStepAddsTheSample :
    let w := fed twoSamples [triple 13 (-26) 5] [] []
    w.seq.phase = .calGyro ∧ w.env.gyroLink = triple 13 (-26) 5 :: [] := by decide

/-- The sample that ends the calibration, and one before it. -/
theorem witness_CalAccelStepEndsTheSample :
    let w := fed (inPhase twoSamples .calAccel) [] [triple 0 0 16384] [1000#64]
    let l := { w with seq := { w.seq with sampleIdx := 1#16 } }
    (l.seq.phase = .calAccel ∧ l.env.accelLink = triple 0 0 16384 :: [] ∧ l.seq.sampleIdx + 1#16 = l.calN) ∧
    (w.seq.phase = .calAccel ∧ w.env.accelLink = triple 0 0 16384 :: [] ∧ w.seq.sampleIdx + 1#16 ≠ w.calN ∧
      w.env.clock = 1000#64 :: []) := by decide

/-- Differences of 1999 and of 2000 ticks. -/
theorem witness_CalDelayStepTestsTheTime :
    let w := fed (inPhase twoSamples .calDelay) [] [] [2000#64]
    let v := fed (inPhase twoSamples .calDelay) [] [] [1999#64]
    (w.seq.phase = .calDelay ∧ w.env.clock = 2000#64 :: [] ∧ (2000 : Int) ≤ (2000#64 - w.seq.tMark).toInt) ∧
    (v.seq.phase = .calDelay ∧ v.env.clock = 1999#64 :: [] ∧ ¬ (2000 : Int) ≤ (1999#64 - v.seq.tMark).toInt) := by
  decide

theorem witness_CalFinishStepWritesTheOffsets : finishing.seq.phase = .calFinish := by decide

theorem witness_UpdAccelStepHoldsTheTriple :
    let w := fed updating [] [triple 100 2848 16484] []
    w.seq.phase = .updAccel ∧ w.env.accelLink = triple 100 2848 16484 :: [] := by decide

/-- A commit; and NUMERIC, in a state that no run reaches, whose gyro offset is infinite. -/
theorem witness_UpdGyroStepComputesTheUpdate :
    let w := fed gyroAhead [triple 1310 0 0] [] [100000#64]
    let v := { w with offsets := { w.offsets with gyro := ⟨0xFF800000#32, 0#32, 0#32⟩ } }
    (w.seq.phase = .updGyro ∧ w.env.gyroLink = triple 1310 0 0 :: [] ∧ w.env.clock = 100000#64 :: [] ∧
      w.blockStep.status.err = 0#3) ∧
    (v.seq.phase = .updGyro ∧ v.env.gyroLink = triple 1310 0 0 :: [] ∧ v.env.clock = 100000#64 :: [] ∧
      v.blockStep.status.err = 4#3) := by decide +kernel

theorem witness_BlockWaitsForItsDraws :
    ready.seq.phase = .idle ∧
    (twoSamples.seq.phase.reads = some .gyro ∧ twoSamples.env.gyroLink = []) ∧
    (updating.seq.phase.reads = some .accel ∧ updating.env.accelLink = []) ∧
    ((inPhase twoSamples .calDelay).seq.phase = .calDelay ∧ (inPhase twoSamples .calDelay).env.clock = []) ∧
    ((fed gyroAhead [triple 1 2 3] [] []).seq.phase = .updGyro ∧
      (fed gyroAhead [triple 1 2 3] [] []).env.gyroLink = triple 1 2 3 :: []) ∧
    ((fed (inPhase twoSamples .calAccel) [] [triple 1 2 3] []).env.accelLink = triple 1 2 3 :: [] ∧
      (inPhase twoSamples .calAccel).seq.sampleIdx + 1#16 ≠ twoSamples.calN) := by decide

theorem witness_CalibrateLeavesTheOrientation :
    exec .calibrate ready = .next (host ready 0x10000000001) ∧ calibrating.seq.phase.calibrating = true ∧
    finishing.seq.phase.calibrating = true :=
  ⟨rfl, by decide⟩

/-- An exhausted read, and NUMERIC. -/
theorem witness_FailedCommandLeavesTheResults :
    let w := fed { updating with retryMax := 1#8 } [] [.err] []
    let v := { fed gyroAhead [triple 0 0 0] [] [5#64] with
      offsets := { gyroAhead.offsets with gyro := ⟨0xFF800000#32, 0#32, 0#32⟩ } }
    (w.busy = true ∧ w.blockStep.busy = false ∧ w.blockStep.status.err ≠ 0#3) ∧
    (v.busy = true ∧ v.blockStep.busy = false ∧ v.blockStep.status.err ≠ 0#3) := by decide +kernel

/-- Two samples, the first after failures at the limit RETRY_MAX - 1, and a delay of exactly 2000 ticks. -/
theorem witness_CalibrateComputesTheOffsets :
    let samples : List CalSample :=
      [⟨2, 13#16, 0xFFE6#16, 5#16, 1, 100#16, 0xFF38#16, 16484#16⟩,
       ⟨0, 15#16, 0xFFE8#16, 3#16, 0, 96#16, 0xFF34#16, 16480#16⟩]
    let delays : List (Time × Time) := [(1000#64, 3000#64)]
    let s := fed { State.reset with retryMax := 3#8, calN := 2#16 }
      [.err, .err, triple 13 (-26) 5, triple 15 (-24) 3]
      [.err, triple 100 (-200) 16484, triple 96 (-204) 16480] [1000#64, 3000#64]
    s.seq.phase = .idle ∧ samples.length = s.calN.toNat ∧ delays.length + 1 = samples.length ∧
    (∀ x ∈ samples, x.gyroErrs < s.retryMax.toNat ∧ x.accelErrs < s.retryMax.toNat) ∧
    (∀ d ∈ delays, 2000 ≤ (d.2 - d.1).toInt) ∧
    s.env.gyroLink = samples.flatMap CalSample.gyroAnswers ++ [] ∧
    s.env.accelLink = samples.flatMap CalSample.accelAnswers ++ [] ∧
    s.env.clock = delays.flatMap (fun d => [d.1, d.2]) ++ [] :=
  ⟨by decide, by decide, by decide, by decide, fun d hd => by rw [List.mem_singleton.mp hd]; decide, by decide,
    by decide, by decide⟩

theorem witness_UpdateRunsToItsCommit :
    let s := fed { ready with retryMax := 3#8 } [.err, .err, triple 1310 0 0] [triple 0 0 16384] [100000#64]
    s.seq.phase = .idle ∧ s.status.calValid = true ∧ 0 < s.retryMax.toNat ∧ 2 < s.retryMax.toNat ∧
    s.env.accelLink = List.replicate 0 .err ++ triple 0 0 16384 :: [] ∧
    s.env.gyroLink = List.replicate 2 .err ++ triple 1310 0 0 :: [] ∧ s.env.clock = 100000#64 :: [] := by decide

/-- A state in the middle of an UPDATE, with a result committed before. -/
def midUpdate : State :=
  { fed gyroAhead [triple 1310 0 0] [] [200000#64] with
    orient := { roll := 0x3E9E1745#32, pitch := 0xBF7AE148#32, yaw := 0x3C20F6A3#32, yawBias := 0x3A82124B#32
                tLast := 100000#64 } }

theorem witness_Legal : Legal midUpdate :=
  { retryMax := by decide, calN := by decide, alpha := by decide +kernel, beta := by decide +kernel
    accStatTh := by decide +kernel, gzStatTh := by decide +kernel, err := by decide, lastOp := by decide
    roll := by decide +kernel, pitch := by decide +kernel, uncalibrated := by decide, neverUpdated := by decide
    running := by decide, calibrating := by decide, updating := by decide, attempt := by decide
    sampleIdx := by decide, finished := by decide }

theorem witness_StepKeepsLegal : Legal midUpdate ∧ step midUpdate = .next (after midUpdate) :=
  ⟨witness_Legal, rfl⟩

theorem witness_NumericSafe : NumericSafe midUpdate :=
  { legal := witness_Legal, gyroOffsets := by decide +kernel, accelOffsets := by decide +kernel
    gyroSums := by decide, gyroSumsAhead := by decide, accelSums := by decide, acal := by decide +kernel
    yawBias := by decide +kernel, yaw := by decide +kernel, notNumeric := by decide }

theorem witness_StepKeepsNumericallySafe : NumericSafe midUpdate ∧ step midUpdate = .next (after midUpdate) :=
  ⟨witness_NumericSafe, rfl⟩

theorem witness_NoRegisterHoldsANaN : NumericSafe midUpdate := witness_NumericSafe

/-- The least and the greatest finite pattern. -/
theorem witness_ValueOfAPattern : isFinite 0x00000001#32 = true ∧ isFinite 0xFF7FFFFF#32 = true := by
  decide +kernel

/-- A tie; an exact zero sum; the sums just below and exactly at the overflow threshold; infinities and a NaN. -/
theorem witness_SumIsRoundedToNearestEven :
    (isFinite ONE = true ∧ isFinite 0x33800000#32 = true ∧ fadd ONE 0x33800000#32 = ONE) ∧
    (isFinite MINUS_ONE = true ∧ fadd ONE MINUS_ONE = PZERO ∧ fadd 0x80000000#32 0x80000000#32 = 0x80000000#32) ∧
    (isFinite 0x7F7FFFFF#32 = true ∧ isFinite 0x73000000#32 = true ∧
      fadd 0x7F7FFFFF#32 0x72FFFFFF#32 = 0x7F7FFFFF#32 ∧ fadd 0x7F7FFFFF#32 0x73000000#32 = 0x7F800000#32) ∧
    (isInf 0x7F800000#32 = true ∧ isInf 0xFF800000#32 = true ∧ fSign 0x7F800000#32 ≠ fSign 0xFF800000#32 ∧
      isNaN 0x7F800001#32 = true) := by decide +kernel

/-- A finite product; one that overflows with a negative sign; zero results of both signs; the other clauses. -/
theorem witness_ProductIsRoundedToNearestEven :
    (isFinite L180 = true ∧ isFinite 0x3F7AE148#32 = true ∧ isFinite (fmul L180 0x3F7AE148#32) = true) ∧
    (isFinite 0xFF7FFFFF#32 = true ∧ fmul 0xFF7FFFFF#32 L180 = 0xFF800000#32) ∧
    (isFinite 0x80000001#32 = true ∧ fmul 0x80000001#32 0x00000001#32 = 0x80000000#32 ∧
      fmul 0x80000000#32 MINUS_ONE = PZERO) ∧
    (isInf 0xFF800000#32 = true ∧ isNaN L180 = false ∧ fMag L180 ≠ 0 ∧ fMag 0x80000000#32 = 0 ∧
      isNaN 0x7F800001#32 = true) := by decide +kernel

/-- A finite quotient; one that overflows; a zero result; the cases of a zero and of an infinite operand. -/
theorem witness_QuotientIsRoundedToNearestEven :
    (isFinite ONE = true ∧ isFinite 0x43030000#32 = true ∧ fVal 0x43030000#32 ≠ 0 ∧
      isFinite (fdiv ONE 0x43030000#32) = true) ∧
    (fVal 0x80000001#32 ≠ 0 ∧ fdiv L180 0x80000001#32 = 0xFF800000#32 ∧
      fdiv 0x80000001#32 0x7F7FFFFF#32 = 0x80000000#32) ∧
    (fVal ONE ≠ 0 ∧ fMag 0x80000000#32 = 0 ∧ isInf 0x7F800000#32 = true ∧ isNaN 0x7F800001#32 = true) := by
  decide +kernel

theorem witness_SquareRootIsNearest :
    isFinite 0x7F7FFFFF#32 = true ∧ 0 ≤ fVal 0x7F7FFFFF#32 ∧ isFinite 0x80000000#32 = true ∧
    0 ≤ fVal 0x80000000#32 := by decide +kernel

/-- The greatest magnitude of the exact clause, of either sign, and a time difference beyond it (R165). -/
theorem witness_ConversionsAreExactOrBounded :
    (16777216 : Int).natAbs ≤ 2 ^ 24 ∧ (-16777216 : Int).natAbs ≤ 2 ^ 24 ∧ i2f 16777217 = 0x4B800000#32 ∧
    i2f 9223372036854775807 = 0x5F000000#32 := by decide +kernel

/-- Each clause at its boundary: 180.0 and -90.0 are kept, the next value beyond each is folded. -/
theorem witness_WrapIsTheExactModularFold :
    isFinite 0x7F800000#32 = false ∧
    (isFinite L180 = true ∧ fVal L180 = 180 * 2 ^ 149) ∧ fVal (fneg L90) = -(90 * 2 ^ 149) ∧
    (isFinite 0x43340001#32 = true ∧ 180 * 2 ^ 149 < fVal 0x43340001#32) ∧
    (isFinite 0xC2B40001#32 = true ∧ fVal 0xC2B40001#32 < -(90 * 2 ^ 149)) := by decide +kernel

theorem witness_WrapIsIdempotentInRange : wrap .l180 0x43348000#32 = some 0xC3338000#32 := by decide +kernel

theorem witness_ZeroThresholdDisablesBiasLearning : fBits 0x80000000#32 = 0 ∧ fBits 0#32 = 0 := by
  decide +kernel

/-- Zero abscissae of both signs, and zero ordinates are covered by the zero clauses. -/
theorem witness_ArctangentLaws :
    (isFinite PZERO = true ∧ fSign PZERO = false) ∧ (isFinite 0x80000000#32 = true ∧ fSign 0x80000000#32 = true) ∧
    (isFinite MINUS_ONE = true ∧ fMag MINUS_ONE ≠ 0 ∧ fMag 0x80000000#32 = 0) := by decide +kernel

theorem witness_AngleBracketEnclosesTheArctangent : 0 < fMag L90 ∧ 0 < fMag ONE := by decide +kernel

theorem witness_ArctangentIsNearest :
    isFinite L90 = true ∧ isFinite MINUS_ONE = true ∧ fMag L90 ≠ 0 ∧ fMag MINUS_ONE ≠ 0 ∧
    (angleBits atan2Precisions (fMag L90) (fMag MINUS_ONE) (fSign MINUS_ONE)).isSome = true := by decide +kernel

end Sys2Proof.Tests
end

section
/-! PROOFS. Where the time input is sampled (10_state.md R69, R70): a host transaction and hardware reset leave
it alone, and so does every block step but those of the three places that R70 lists. -/

namespace Sys2Proof.Machine

variable {s t : State}

/-- R70 for one step from `s` to `t`: no time value is taken, or one is, at a place that the rule lists. -/
def SamplesTimeOnlyWhereListed (s t : State) : Prop :=
  t.env.clock = s.env.clock ∨
  ((∃ x, s.env.clock = x :: t.env.clock) ∧
    ((s.seq.phase = .updGyro ∧ t.seq.phase = .idle) ∨
     (s.seq.phase = .calAccel ∧ t.seq.phase = .calDelay ∧ t.seq.sampleIdx = s.seq.sampleIdx + 1#16) ∨
     s.seq.phase = .calDelay))

/-- Acceptance of UPDATE leaves the agents around the block alone (R173). -/
@[simp] theorem State.acceptUpdate_env : s.acceptUpdate.env = s.env := by
  rcases State.acceptUpdate_cases (s := s) with ⟨-, h⟩ | ⟨-, h⟩ <;> rw [h]

/-- A failed attempt counts and does not touch the agents around the block (R134, R136). -/
@[simp] theorem State.failedAttempt_env (k : SensorKind) : (s.failedAttempt k).env = s.env := by
  rcases State.failedAttempt_cases (s := s) k with ⟨-, h⟩ | ⟨-, h⟩ <;> rw [h]

/-- A host transaction samples no time (R70). -/
theorem exec_clock {i : Instr} (h : exec i s = .next t) : t.env.clock = s.env.clock := by
  obtain ⟨u, hu, hcases⟩ := exec_cases i s
  obtain rfl : u = t := Host.Outcome.next.inj (hu.symm.trans h)
  rcases hcases with rfl | ⟨v, rfl⟩ | rfl | rfl | ⟨d, rfl⟩ | ⟨-, haccepted⟩
  case inr.inr.inr.inr.inr =>
    rcases haccepted with ⟨c, rfl⟩ | ⟨v, -, rfl⟩ | ⟨v, -, rfl⟩ | ⟨v, -, rfl | rfl⟩ | ⟨v, -, rfl | rfl⟩ | rfl | rfl
    all_goals simp
  all_goals simp

/-- The success action of CAL_ACCEL takes one time value where it ends a sample and starts the delay, and
none after the last sample (R140). -/
theorem endSample_samplesTime {x y z : Raw} (hp : s.seq.phase = .calAccel) (h : s.endSample x y z = some t) :
    SamplesTimeOnlyWhereListed s t := by
  rcases State.endSample_cases h with ⟨-, rfl⟩ | ⟨-, m, rest, hclock, rfl⟩
  · exact .inl rfl
  · exact .inr ⟨⟨m, hclock⟩, .inr (.inl ⟨hp, rfl, rfl⟩)⟩

/-- The delay test takes one time value, whatever it answers (R141). -/
theorem stepCalDelay_samplesTime (hp : s.seq.phase = .calDelay) (h : s.stepCalDelay = some t) :
    SamplesTimeOnlyWhereListed s t := by
  obtain ⟨m, rest, hclock, ⟨-, rfl⟩ | ⟨-, rfl⟩⟩ := State.stepCalDelay_cases h
  all_goals exact .inr ⟨⟨m, hclock⟩, .inr (.inr hp)⟩

/-- The success action of UPD_GYRO takes one time value and completes the command, committed or with
NUMERIC (R175, R177). -/
theorem finishUpdate_samplesTime {x y z : Raw} (hp : s.seq.phase = .updGyro) (h : s.finishUpdate x y z = some t) :
    SamplesTimeOnlyWhereListed s t := by
  obtain ⟨m, rest, hclock, ⟨o, -, rfl⟩ | ⟨-, rfl⟩⟩ := State.finishUpdate_cases h
  all_goals exact .inr ⟨⟨m, hclock⟩, .inl ⟨hp, rfl⟩⟩

/-- Of a state the sampling of time depends on its sequencer and on the time values to come. -/
theorem SamplesTimeOnlyWhereListed.congr {u : State} (hu : SamplesTimeOnlyWhereListed u t)
    (hseq : u.seq = s.seq) (hclock : u.env.clock = s.env.clock) : SamplesTimeOnlyWhereListed s t := by
  unfold SamplesTimeOnlyWhereListed at hu ⊢
  rwa [hseq, hclock] at hu

/-- An attempt leaves the sequencer and the time values to come as they are (R66). -/
theorem sensorRead_seq_clock {k : SensorKind} {a : SensorAnswer} (h : s.sensorRead k = some (a, t)) :
    t.seq = s.seq ∧ t.env.clock = s.env.clock := by
  obtain ⟨ht, -, hclock, -, -⟩ := State.sensorRead_frame h
  exact ⟨by rw [ht], hclock⟩

/-- R70 for an enabled block step. -/
theorem blockAction_samplesTime (h : s.blockAction = some t) : SamplesTimeOnlyWhereListed s t := by
  rcases blockAction_cases h with ⟨k, u, -, hr, rfl⟩ | ⟨-, x, y, z, u, hr, rfl⟩ | ⟨hp, x, y, z, u, hr, hend⟩ |
    ⟨hp, hdelay⟩ | ⟨-, rfl⟩ | ⟨-, x, y, z, u, hr, rfl⟩ | ⟨hp, x, y, z, u, hr, hfinish⟩
  · exact .inl (by simp [(sensorRead_seq_clock hr).2])
  · exact .inl (by simp [(sensorRead_seq_clock hr).2])
  · obtain ⟨hseq, hclock⟩ := sensorRead_seq_clock hr
    exact (endSample_samplesTime (hseq ▸ hp) hend).congr hseq hclock
  · exact stepCalDelay_samplesTime hp hdelay
  · exact .inl (by simp)
  · exact .inl (by simp [(sensorRead_seq_clock hr).2])
  · obtain ⟨hseq, hclock⟩ := sensorRead_seq_clock hr
    exact (finishUpdate_samplesTime (hseq ▸ hp) hfinish).congr hseq hclock

/-- R70 for the block's turn: where no step is enabled nothing is sampled. -/
theorem blockStep_samplesTime (s : State) : SamplesTimeOnlyWhereListed s s.blockStep := by
  rcases blockStep_cases s with ⟨-, h⟩ | ⟨t, ht, h⟩
  · exact .inl (by rw [h])
  · exact h ▸ blockAction_samplesTime ht

/-- Settles O30: by the kinds of step; only a block step can take a time value, and then in one of the three
places. -/
theorem timeIsSampledAtTwoPointsOnly : Obligations.TimeIsSampledAtTwoPointsOnly := by
  intro s t h
  change SamplesTimeOnlyWhereListed s t
  rcases step_cases s with ⟨-, hs⟩ | ⟨p, rest, -, hs⟩ | ⟨rest, -, hs⟩ | ⟨rest, -, hs⟩ <;> rw [hs] at h
  case inr.inl => exact .inl (by simpa using exec_clock h)
  all_goals obtain rfl := Host.Outcome.next.inj h
  case inl => exact blockStep_samplesTime s
  case inr.inr.inl => exact (blockStep_samplesTime (s.withSchedule rest)).congr rfl rfl
  case inr.inr.inr => exact .inl rfl

end Sys2Proof.Machine
end

section
/-! PROOFS. The writes and the command words that touch no other part of the machine (40_host_access.md R105 to
R111, R116): what the two gates do with a state that is known to be idle or busy, the fields a count write
takes from DATA, and from these the statements. -/

namespace Sys2Proof.Machine

variable {s : State}

/-- A CMD write goes on while the block is idle (R105). -/
theorem State.gateCmd_of_idle (h : s.seq.phase = .idle) (go : State → State) : s.gateCmd go = go s := by
  rcases State.gateCmd_cases (s := s) go with ⟨hbusy, -⟩ | ⟨-, hgate⟩
  · exact absurd h ((State.busy_eq_true s).1 hbusy)
  · exact hgate

/-- A CMD write is rejected while a command runs, whatever it would have done (R105, R206). -/
theorem State.gateCmd_of_busy (h : s.seq.phase ≠ .idle) (go : State → State) : s.gateCmd go = s.rejectCmd := by
  rcases State.gateCmd_cases (s := s) go with ⟨-, hgate⟩ | ⟨hidle, -⟩
  · exact hgate
  · exact absurd ((State.busy_eq_false s).1 hidle) h

/-- A legal configuration write is stored while the block is idle (R107). -/
theorem State.gateConfig_of_idle {legal : Bool} (h : s.seq.phase = .idle) (hlegal : legal = true)
    (store : State → State) : s.gateConfig legal store = store s := by
  rcases State.gateConfig_cases (s := s) legal store with ⟨-, -, hgate⟩ | ⟨hbusy | hillegal, -⟩
  · exact hgate
  · exact absurd h ((State.busy_eq_true s).1 hbusy)
  · exact absurd hlegal (Bool.eq_false_iff.1 hillegal)

/-- A configuration write is rejected while a command runs, and at any time where its value is illegal
(R107, R207). -/
theorem State.gateConfig_of_busy_or_illegal {legal : Bool} (h : s.seq.phase ≠ .idle ∨ legal = false)
    (store : State → State) : s.gateConfig legal store = s.rejectWrite := by
  rcases State.gateConfig_cases (s := s) legal store with ⟨hidle, hlegal, -⟩ | ⟨-, hgate⟩
  · rcases h with hbusy | hillegal
    · exact absurd ((State.busy_eq_false s).1 hidle) hbusy
    · exact absurd hlegal (Bool.eq_false_iff.1 hillegal)
  · exact hgate

/-- RETRY_MAX takes DATA[7:0] (R110). -/
theorem retryMaxOfData_eq_ofNat (d : Word) : retryMaxOfData d = BitVec.ofNat 8 d.toNat := by
  simp [retryMaxOfData, BitVec.extractLsb']

/-- CAL_N takes DATA[15:0] (R111). -/
theorem calNOfData_eq_ofNat (d : Word) : calNOfData d = BitVec.ofNat 16 d.toNat := by
  simp [calNOfData, BitVec.extractLsb']

/-- A write to RETRY_MAX is illegal exactly when DATA[7:0] is 0 (R110). -/
theorem retryMaxOfData_eq_zero_iff (d : Word) : retryMaxOfData d = 0#8 ↔ d.toNat % 256 = 0 := by
  simp [retryMaxOfData_eq_ofNat, ← BitVec.toNat_inj]

/-- A write to CAL_N is illegal exactly when DATA[15:0] is 0 (R111). -/
theorem calNOfData_eq_zero_iff (d : Word) : calNOfData d = 0#16 ↔ d.toNat % 65536 = 0 := by
  simp [calNOfData_eq_ofNat, ← BitVec.toNat_inj]

/-- Settles O13: WR_STATUS is the acknowledgement of R205, which no gate precedes. -/
theorem statusWriteClearsFlags : Obligations.StatusWriteClearsFlags := by
  intro s d
  have hexec : exec (.wrStatus d) s = .next (s.acknowledge d) := rfl
  simp only [hexec, State.acknowledge, Status.acknowledge, writeOneToClear]

/-- Settles O14: the gate of R107 with every value legal. -/
theorem configWrite : Obligations.ConfigWrite := by
  intro s d
  have hexec : exec (.wrConfig d) s = .next (s.gateConfig true fun s => { s with config := configOfData d }) := rfl
  refine ⟨fun hidle => ?_, fun hbusy => ?_⟩
  · rw [hexec, State.gateConfig_of_idle hidle rfl, configOfData]
  · rw [hexec, State.gateConfig_of_busy_or_illegal (.inl hbusy), State.rejectWrite]

/-- Settles O15: the gate of R107, with a field that is 0 as the only illegal value. -/
theorem countWrites : Obligations.CountWrites := by
  intro s d rejected
  have hretry : exec (.wrRetryMax d) s =
      .next (s.gateConfig (retryMaxOfData d != 0#8) fun s => { s with retryMax := retryMaxOfData d }) := rfl
  have hcalN : exec (.wrCalN d) s =
      .next (s.gateConfig (calNOfData d != 0#16) fun s => { s with calN := calNOfData d }) := rfl
  simp only [ne_eq, ← retryMaxOfData_eq_zero_iff, ← calNOfData_eq_zero_iff, hretry, hcalN]
  refine ⟨fun hidle hfield => ?_, fun h => ?_, fun hidle hfield => ?_, fun h => ?_⟩
  · rw [State.gateConfig_of_idle hidle (bne_iff_ne.2 hfield), retryMaxOfData_eq_ofNat]
  · rw [State.gateConfig_of_busy_or_illegal (h.imp_right bne_eq_false_iff_eq.2)]; rfl
  · rw [State.gateConfig_of_idle hidle (bne_iff_ne.2 hfield), calNOfData_eq_ofNat]
  · rw [State.gateConfig_of_busy_or_illegal (h.imp_right bne_eq_false_iff_eq.2)]; rfl

/-- Settles O18: row by row; no gate stands before the rejection, so BUSY does not matter. -/
theorem readOnlyAndUnmappedWritesAreRejected : Obligations.ReadOnlyAndUnmappedWritesAreRejected := by
  intro s a i hi
  change exec i s = .next s.rejectWrite
  fin_cases hi
  all_goals rfl

/-- Settles O19: a reserved word behind the gate of R105 is rejected on either side of it. -/
theorem nopAndReservedCommands : Obligations.NopAndReservedCommands := by
  intro s d rejected
  have hnop : exec .nop s = .next (s.gateCmd fun s => s) := rfl
  have hreserved : exec (.cmdReserved d) s = .next (s.gateCmd State.rejectCmd) := rfl
  rw [hnop, hreserved]
  refine ⟨fun hidle => ?_, fun hbusy => ?_, ?_⟩
  · rw [State.gateCmd_of_idle hidle]
  · rw [State.gateCmd_of_busy hbusy]; rfl
  · by_cases hidle : s.seq.phase = .idle
    · rw [State.gateCmd_of_idle hidle]; rfl
    · rw [State.gateCmd_of_busy hidle]; rfl

end Sys2Proof.Machine
end

section
/-! PROOFS. CALIBRATE, its acceptance and the block steps that need no reading, and the failed attempt of either
command (41_calibrate.md R133, R134, R136, R138, R141, R142): the block's turn in terms of its enabled step, the
enabled step of each phase concerned, and from these the statements. -/

namespace Sys2Proof.Machine

variable {s t : State}

/-- The block takes its step where one is enabled (R48). -/
theorem State.blockStep_of_blockAction (h : s.blockAction = some t) : s.blockStep = t := by
  simp [State.blockStep, h]

/-- The phases that read the gyro (R139, R175). -/
theorem Phase.reads_eq_gyro_iff {p : Phase} : p.reads = some .gyro ↔ p = .calGyro ∨ p = .updGyro := by
  cases p <;> simp [Phase.reads]

/-- The phases that read the accelerometer (R140, R174). -/
theorem Phase.reads_eq_accel_iff {p : Phase} : p.reads = some .accel ↔ p = .calAccel ∨ p = .updAccel := by
  cases p <;> simp [Phase.reads]

/-- The step of a phase that reads is one step of a bounded-retry read of its kind (R133); the phases differ in
the success action only. -/
theorem State.blockAction_eq_readTriple {k : SensorKind} (h : s.seq.phase.reads = some k) :
    ∃ onOk, s.blockAction = s.readTriple k onOk := by
  unfold State.blockAction
  cases hp : s.seq.phase <;> rw [hp] at h <;> cases h
  case calGyro | calAccel | updAccel | updGyro => exact ⟨_, rfl⟩

/-- An attempt that the link answers with `Err` is a failed attempt, whatever the success action (R134). -/
theorem State.readTriple_of_err {k : SensorKind} (h : s.sensorRead k = some (.err, t))
    (onOk : Raw → Raw → Raw → State → Option State) : s.readTriple k onOk = some (t.failedAttempt k) := by
  simp [State.readTriple, h]

/-- The block's turn where the phase reads and the link answers `Err` (R134). -/
theorem State.blockStep_of_err {k : SensorKind} (hreads : s.seq.phase.reads = some k)
    (herr : s.sensorRead k = some (.err, t)) : s.blockStep = t.failedAttempt k := by
  obtain ⟨onOk, haction⟩ := State.blockAction_eq_readTriple hreads
  exact State.blockStep_of_blockAction (haction.trans (State.readTriple_of_err herr onOk))

/-- A failed attempt as one next state, decided by the new count (R134, R136). -/
theorem State.failedAttempt_eq (k : SensorKind) :
    s.failedAttempt k =
      if s.seq.attempt + 1#8 = s.retryMax then { s with
        status := { s.status with err := k.exhausted.toErr, done := true }
        seq := { s.seq with attempt := s.seq.attempt + 1#8, phase := .idle } }
      else { s with seq := { s.seq with attempt := s.seq.attempt + 1#8 } } := by
  rcases State.failedAttempt_cases (s := s) k with ⟨hlast, h⟩ | ⟨hnot, h⟩
  · rw [h, if_pos hlast]
  · rw [h, if_neg hnot]

/-- The delay test reads the difference as signed, with CAL_DELAY at its default of 2000 ticks (R6, R141). -/
theorem delayOver_iff (now mark : Time) : delayOver now mark = true ↔ 2000 ≤ (now - mark).toInt := by
  simp [delayOver, Config.calDelay]

/-- The delay test is enabled as soon as the time source gives a value (R69, R141). -/
theorem State.exists_stepCalDelay_eq_some {m : Time} {times : List Time} (h : s.env.clock = m :: times) :
    ∃ t, s.stepCalDelay = some t := by
  simp [State.stepCalDelay, State.now_eq_some.2 ⟨times, h, rfl⟩]

/-- Settles O31: a phase that reads takes the answer and, it being `Err`, counts the attempt; the code is that of
the kind. -/
theorem failedAttemptCountsOrEndsTheCommand : Obligations.FailedAttemptCountsOrEndsTheCommand := by
  refine ⟨fun s rest hphase hlink => ?_, fun s rest hphase hlink => ?_⟩
  · have hread := State.sensorRead_gyro_eq_some.2 ⟨rest, hlink, rfl⟩
    rw [State.blockStep_of_err (Phase.reads_eq_gyro_iff.2 hphase) hread, State.failedAttempt_eq]
    rfl
  · have hread := State.sensorRead_accel_eq_some.2 ⟨rest, hlink, rfl⟩
    rw [State.blockStep_of_err (Phase.reads_eq_accel_iff.2 hphase) hread, State.failedAttempt_eq]
    rfl

/-- Settles O20: the gate of R105, with the acceptance of R138 behind it. -/
theorem calibrateAcceptance : Obligations.CalibrateAcceptance := by
  intro s
  have hexec : exec .calibrate s = .next (s.gateCmd State.acceptCalibrate) := rfl
  refine ⟨fun hidle => ?_, fun hbusy => ?_⟩
  · rw [hexec, State.gateCmd_of_idle hidle]; rfl
  · rw [hexec, State.gateCmd_of_busy hbusy]; rfl

/-- Settles O35: the test is enabled, and of its two ends the sampled time decides. -/
theorem calDelayStepTestsTheTime : Obligations.CalDelayStepTestsTheTime := by
  intro s m times hphase hclock
  have haction : s.blockAction = s.stepCalDelay := by simp [State.blockAction, hphase]
  obtain ⟨t, ht⟩ := State.exists_stepCalDelay_eq_some hclock
  rw [State.blockStep_of_blockAction (haction.trans ht)]
  obtain ⟨m', times', hclock', hends⟩ := State.stepCalDelay_cases ht
  obtain ⟨rfl, rfl⟩ := List.cons.inj (hclock.symm.trans hclock')
  rcases hends with ⟨hover, rfl⟩ | ⟨hwait, rfl⟩
  · rw [if_pos ((delayOver_iff _ _).1 hover)]
  · rw [if_neg (mt (delayOver_iff _ _).2 (Bool.eq_false_iff.1 hwait))]

/-- Settles O36: CAL_FINISH needs no input, so its step is always enabled; it completes with OK (R201). -/
theorem calFinishStepWritesTheOffsets : Obligations.CalFinishStepWritesTheOffsets := by
  intro s hphase
  have haction : s.blockAction = some s.stepCalFinish := by simp [State.blockAction, hphase]
  rw [State.blockStep_of_blockAction haction]
  rfl

end Sys2Proof.Machine
end

section
/-! PROOFS. `Wrap` (42_update.md R160): the integer fold takes the least number of turns; a folded binary32 keeps
to 24 significant bits, so rounding leaves it as it is; from these the statement. -/

namespace Sys2Proof.Machine

/-- The quotient of `foldExact`: how many steps of length `d` cover a distance `x`. -/
def leastTurns (x d : Int) : Int := (x + (d - 1)) / d

/-- The steps cover the distance, and one step fewer does not. -/
theorem leastTurns_spec {x d : Int} (hx : 0 < x) (hd : 0 < d) :
    1 ≤ leastTurns x d ∧ x ≤ d * leastTurns x d ∧ d * (leastTurns x d - 1) < x := by
  have hdiv : d * leastTurns x d + (x + (d - 1)) % d = x + (d - 1) := Int.mul_ediv_add_emod ..
  have hlow := Int.emod_nonneg (x + (d - 1)) hd.ne'
  have hupp := Int.emod_lt_of_pos (x + (d - 1)) hd
  exact ⟨(Int.le_ediv_iff_mul_le hd).2 (by omega), by omega, by rw [mul_sub]; omega⟩

/-- Above the limit the fold subtracts the least number of turns (R160). -/
theorem foldExact_of_gt {v l : Int} (hl : 0 < l) (h : l < v) :
    ∃ k, 1 ≤ k ∧ foldExact v l = v - 2 * l * k ∧ foldExact v l ≤ l ∧ l < v - 2 * l * (k - 1) := by
  obtain ⟨hone, hcover, hleast⟩ := leastTurns_spec (x := v - l) (d := 2 * l) (by omega) (by omega)
  have hfold : foldExact v l = v - 2 * l * leastTurns (v - l) (2 * l) := if_pos h
  exact ⟨_, hone, hfold, by omega, by omega⟩

/-- Below the range the fold adds the least number of turns (R160). -/
theorem foldExact_of_lt {v l : Int} (hl : 0 < l) (h : v < -l) :
    ∃ k, 1 ≤ k ∧ foldExact v l = v + 2 * l * k ∧ -l ≤ foldExact v l ∧ v + 2 * l * (k - 1) < -l := by
  obtain ⟨hone, hcover, hleast⟩ := leastTurns_spec (x := -v - l) (d := 2 * l) (by omega) (by omega)
  have hfold : foldExact v l = v + 2 * l * leastTurns (-v - l) (2 * l) := if_neg (by omega)
  exact ⟨_, hone, hfold, by omega, by omega⟩

/-- A turn is as long as the range, so the least number of turns does not pass through it. -/
theorem natAbs_foldExact_le {v l : Int} (hl : 0 < l) (h : l < v.natAbs) : (foldExact v l).natAbs ≤ l := by
  rcases (by omega : l < v ∨ v < -l) with hv | hv
  · obtain ⟨k, -, hfold, hrange, hleast⟩ := foldExact_of_gt hl hv
    rw [mul_sub] at hleast
    omega
  · obtain ⟨k, -, hfold, hrange, hleast⟩ := foldExact_of_lt hl hv
    rw [mul_sub] at hleast
    omega

/-- A common divisor of the value and the turn divides the folded value. -/
theorem dvd_foldExact {c v l : Int} (hv : c ∣ v) (hl : c ∣ 2 * l) : c ∣ foldExact v l := by
  unfold foldExact
  split
  · exact dvd_sub hv (hl.mul_right _)
  · exact dvd_add hv (hl.mul_right _)

/-- A significand of at most 24 bits has a pattern at every exponent, normalised or not (R63). -/
theorem exists_magOfBits_eq (e k : Nat) (hk : k ≤ 2 ^ 24) : ∃ n, magOfBits n = k * 2 ^ e := by
  induction e generalizing k with
  | zero => exact ⟨_, magOfBits_eq 0 k hk (.inl rfl)⟩
  | succ e ih =>
    rcases Nat.lt_or_ge k (2 ^ 23) with hsmall | hnormal
    · obtain ⟨n, hn⟩ := ih (2 * k) (by omega)
      exact ⟨n, by rw [hn, pow_succ]; ring⟩
    · exact ⟨_, magOfBits_eq (e + 1) k hk (.inr hnormal)⟩

/-- The magnitude of a pattern is a multiple of a power of two, of 24 bits at most (R63). -/
theorem exists_two_pow_dvd_fMag (a : F32) : ∃ e, 2 ^ e ∣ fMag a ∧ fMag a < 2 ^ (e + 24) := by
  obtain ⟨e, k, hn, hk, hek⟩ := exists_significand (fBits a)
  rw [fMag, hn, magOfBits_eq e k hk.le hek]
  refine ⟨e, Dvd.intro_left k rfl, ?_⟩
  rw [pow_add, mul_comm]
  exact Nat.mul_lt_mul_of_pos_left hk (Nat.two_pow_pos e)

/-- An exact value of at most 24 significant bits is representable, so it is not rounded (R11). -/
theorem fVal_ofExact_eq_of_dvd {v : Int} {g : Nat} (hg : g < 253) (hdvd : (2 ^ g : Int) ∣ v)
    (hle : v.natAbs ≤ 2 ^ (g + 24)) : fVal (ofExact v) = v := by
  obtain ⟨k, hk⟩ : 2 ^ g ∣ v.natAbs := by simpa using Int.natAbs_dvd_natAbs.2 hdvd
  have hk24 : k ≤ 2 ^ 24 := by
    rw [hk, pow_add] at hle
    exact Nat.le_of_mul_le_mul_left hle (Nat.two_pow_pos g)
  obtain ⟨n, hn⟩ := exists_magOfBits_eq g k hk24
  have hmag : v.natAbs = magOfBits n := by rw [hk, hn, mul_comm]
  have hfin : n < infBits := by
    rw [← magOfBits_strictMono.lt_iff_lt, hn, show infBits = 253 * 2 ^ 23 + 2 ^ 24 from rfl,
      magOfBits_eq 253 (2 ^ 24) (by omega) (by omega)]
    exact Nat.mul_lt_mul_of_le_of_lt hk24 (Nat.pow_lt_pow_right (by omega) hg) (by omega)
  have hround : roundMag v.natAbs 1 = n := by
    rw [hmag, ← Nat.one_mul (magOfBits n)]
    exact roundMag_exact (by omega) hfin.le
  rw [ofExact, hround, fVal_mkF32 _ (hfin.trans infBits_lt), ← hmag]
  by_cases h : v < 0
  · simp only [h, decide_true, if_true]; omega
  · simp only [h, decide_false, Bool.false_eq_true, if_false]; omega

theorem ofExact_zero : ofExact 0 = PZERO := by decide

/-- `fle` of finite operands compares the values (R11). -/
theorem fle_iff_of_finite {a b : F32} (ha : isFinite a = true) (hb : isFinite b = true) :
    fle a b = true ↔ fVal a ≤ fVal b := by
  simp [fle, isFinite_not_nan ha, isFinite_not_nan hb]

/-- The limit in units of 2^-149. -/
def WrapLimit.units (L : WrapLimit) : Int := L.degrees * 2 ^ 149

theorem WrapLimit.units_pos (L : WrapLimit) : 0 < L.units := by cases L <;> decide

theorem WrapLimit.isFinite_toF32 (L : WrapLimit) :
    isFinite L.toF32 = true ∧ isFinite (fneg L.toF32) = true := by cases L <;> decide

/-- The binary32 limits are the limits in degrees, exactly (R12). -/
theorem WrapLimit.fVal_toF32 (L : WrapLimit) :
    fVal L.toF32 = L.units ∧ fVal (fneg L.toF32) = -L.units := by cases L <;> decide

/-- Either limit has the significand 45. -/
theorem WrapLimit.units_eq (L : WrapLimit) : ∃ t : Nat, t ≤ 151 ∧ L.units = ((45 * 2 ^ t : Nat) : Int) := by
  cases L
  · exact ⟨151, by omega, by decide⟩
  · exact ⟨150, by omega, by decide⟩

/-- R160: the folded value is exactly representable. It is a multiple of the last place of the value or of the
turn, whichever is finer, and being within the limit it has at most 24 bits above that place. -/
theorem fVal_ofExact_foldExact {L : WrapLimit} {a : F32} (h : L.units < fMag a) :
    fVal (ofExact (foldExact (fVal a) L.units)) = foldExact (fVal a) L.units := by
  obtain ⟨t, ht, hL⟩ := L.units_eq
  obtain ⟨e, hdvd, hlt⟩ := exists_two_pow_dvd_fMag a
  rw [← natAbs_fVal] at h hdvd hlt
  have hfold := natAbs_foldExact_le L.units_pos h
  rw [hL] at h hfold ⊢
  have hexp : t + 5 < e + 24 := by
    refine (Nat.pow_lt_pow_iff_right Nat.one_lt_two).1 (lt_of_le_of_lt ?_ hlt)
    rw [pow_add]
    omega
  refine fVal_ofExact_eq_of_dvd (g := min e (t + 1)) (by omega) (dvd_foldExact ?_ ?_) ?_
  · have hval : (2 ^ e : Int) ∣ fVal a := by simpa using Int.natCast_dvd.2 hdvd
    exact (pow_dvd_pow 2 (Nat.min_le_left ..)).trans hval
  · have hturn : (2 * (45 * 2 ^ t : Nat) : Int) = 2 ^ (t + 1) * 45 := by push_cast; ring
    rw [hturn]
    exact (pow_dvd_pow 2 (Nat.min_le_right ..)).mul_right 45
  · have hbound : 45 * 2 ^ t ≤ 2 ^ (t + 6) := by rw [pow_add]; omega
    exact (Int.ofNat_le.1 hfold).trans (hbound.trans (Nat.pow_le_pow_right (by omega) (by omega)))

/-- `Wrap` raises NUMERIC on a NaN or an infinity (R177). -/
theorem wrap_of_not_finite {L : WrapLimit} {a : F32} (h : isFinite a = false) : wrap L a = none := by
  simp [wrap, h]

/-- `Wrap` of a finite value, with its two comparisons read as comparisons of exact values (R160). -/
theorem wrap_of_finite {L : WrapLimit} {a : F32} (h : isFinite a = true) :
    wrap L a = if -L.units ≤ fVal a ∧ fVal a ≤ L.units then some a
      else some (ofExact (foldExact (fVal a) L.units)) := by
  obtain ⟨hL, hneg⟩ := L.isFinite_toF32
  obtain ⟨hLval, hnegval⟩ := L.fVal_toF32
  simp only [wrap, h, Bool.not_true, Bool.false_eq_true, if_false, Bool.and_eq_true, fle_iff_of_finite hneg h,
    fle_iff_of_finite h hL, hLval, hnegval]
  rfl

/-- Outside the range `Wrap` is the exact fold, with +0.0 for a zero result (R160). -/
theorem exists_wrap_eq_fold {L : WrapLimit} {a : F32} (hfin : isFinite a = true)
    (h : fVal a < -L.units ∨ L.units < fVal a) :
    ∃ r, wrap L a = some r ∧ fVal r = foldExact (fVal a) L.units ∧ (fVal r = 0 → r = PZERO) := by
  have hval := fVal_ofExact_foldExact (L := L) (a := a) (by rw [← natAbs_fVal]; omega)
  refine ⟨_, by rw [wrap_of_finite hfin, if_neg (by omega)], hval, fun hzero => ?_⟩
  rw [← hval, hzero, ofExact_zero]

/-- Settles O55: the two clauses outside the range are the two branches of the fold, which rounding leaves as it
is. -/
theorem wrapIsTheExactModularFold : Obligations.WrapIsTheExactModularFold := by
  intro L a l
  have hl : l = L.units := by cases L <;> rfl
  rw [hl]
  refine ⟨wrap_of_not_finite, fun hfin hge hle => ?_, fun hfin hgt => ?_, fun hfin hlt => ?_⟩
  · rw [wrap_of_finite hfin, if_pos ⟨hge, hle⟩]
  · obtain ⟨r, hr, hval, hzero⟩ := exists_wrap_eq_fold hfin (.inr hgt)
    obtain ⟨k, hone, hfold, hrange, hleast⟩ := foldExact_of_gt L.units_pos hgt
    exact ⟨r, k, hr, hone, hval.trans hfold, hval.trans_le hrange, hleast, hzero⟩
  · obtain ⟨r, hr, hval, hzero⟩ := exists_wrap_eq_fold hfin (.inl hlt)
    obtain ⟨k, hone, hfold, hrange, hleast⟩ := foldExact_of_lt L.units_pos hlt
    exact ⟨r, k, hr, hone, hval.trans hfold, hrange.trans_eq hval.symm, hleast, hzero⟩

end Sys2Proof.Machine
end

section
/-! PROOFS. UPDATE, its acceptance and the step that completes it (42_update.md R162 to R171, R173, R175, R177):
the named parts of one estimate as the formulas of the rules, the step of UPD_GYRO in terms of the estimate, and
from these the statements. -/

namespace Sys2Proof.Machine

variable {s : State}

/-- `dtpos` and `dt`, with TIME_HZ at its default (R6, R165), decide what an integration adds (R166, R167, R170). -/
theorem integrate_elapsed (prev rate : F32) (tValid : Bool) (tLast tNow : Time) :
    integrate prev rate (elapsed tValid tLast tNow) =
      if tValid = true ∧ 0 < (tNow - tLast).toInt then
        fadd prev (fmul rate (fdiv (i2f (tNow - tLast).toInt) (i2f 1000000)))
      else prev := by
  unfold elapsed
  by_cases h : tValid = true ∧ 0 < (tNow - tLast).toInt
  · rw [if_pos h, if_pos (by simpa using h)]; rfl
  · rw [if_neg h, if_neg (by simpa using h)]; rfl

/-- The blend runs from the first `Wrap` to the second, and NUMERIC of the first ends it (R166, R167). -/
theorem fuse_eq_bind (L : WrapLimit) (alpha gint acc : F32) :
    fuse L alpha gint acc = (wrap L (fsub gint acc)).bind fun w =>
      wrap L (fadd (fmul alpha (fadd acc w)) (fmul (fsub ONE alpha) acc)) := by
  unfold fuse
  cases wrap L (fsub gint acc) <;> rfl

/-- The bias learns exactly where both comparisons find the unit at rest (R168, R169). -/
theorem newBias_stationary (a : Vec3) (gz accTh gzTh beta bias : F32) :
    newBias (stationary a gz accTh gzTh) beta bias gz =
      if flt (fabs (fsub (accMagnitude a) ONE)) accTh = true ∧ flt (fabs gz) gzTh = true then
        fadd (fmul (fsub ONE beta) bias) (fmul beta gz)
      else bias := by
  simp only [newBias, stationary, Bool.and_eq_true]

/-- The roll of one estimate, none where a `Wrap` raised NUMERIC (R166). -/
def State.fusedRoll (s : State) (a g : Vec3) (tNow : Time) : Option F32 :=
  fuse .l180 s.alpha (integrate s.orient.roll g.x (elapsed s.status.tValid s.orient.tLast tNow)) (accAngleX a)

/-- The pitch of one estimate, none where a `Wrap` raised NUMERIC (R167). -/
def State.fusedPitch (s : State) (a g : Vec3) (tNow : Time) : Option F32 :=
  fuse .l90 s.alpha
    (integrate s.orient.pitch (fmul (orientationSign a.z) g.y) (elapsed s.status.tValid s.orient.tLast tNow))
    (accAngleY a)

/-- The yaw bias of one estimate (R168, R169). -/
def State.updatedBias (s : State) (a g : Vec3) : F32 :=
  newBias (stationary a g.z s.accStatTh s.gzStatTh) s.beta s.orient.yawBias g.z

/-- The yaw of one estimate, by the new bias (R170). -/
def State.updatedYaw (s : State) (a g : Vec3) (tNow : Time) : F32 :=
  integrate s.orient.yaw (fsub g.z (s.updatedBias a g)) (elapsed s.status.tValid s.orient.tLast tNow)

/-- An estimate is put together from its four numbers, and needs both angles (R162 to R171). -/
theorem State.estimate_eq_bind (s : State) (a g : Vec3) (tNow : Time) :
    s.estimate a g tNow = (s.fusedRoll a g tNow).bind fun r => (s.fusedPitch a g tNow).map fun p =>
      { roll := r, pitch := p, yaw := s.updatedYaw a g tNow, yawBias := s.updatedBias a g, tLast := tNow } := by
  change (match s.fusedRoll a g tNow, s.fusedPitch a g tNow with | some _, some _ => _ | _, _ => none) = _
  cases s.fusedRoll a g tNow <;> cases s.fusedPitch a g tNow <;> rfl

theorem State.estimate_eq_none {a g : Vec3} {tNow : Time}
    (h : s.fusedRoll a g tNow = none ∨ s.fusedPitch a g tNow = none) : s.estimate a g tNow = none := by
  rw [State.estimate_eq_bind]
  rcases h with h | h <;> simp [h]

/-- With a time value given an update ends in the same step, by its estimate committed or with NUMERIC
(R175, R177). -/
theorem State.finishUpdate_eq {tNow : Time} {times : List Time} (hclock : s.env.clock = tNow :: times)
    (x y z : Raw) :
    s.finishUpdate x y z = some ((s.estimate s.seq.acal (s.calGyro x y z) tNow).elim
      (({ s with env := { s.env with clock := times } } : State).complete .numeric)
      ({ s with env := { s.env with clock := times } } : State).commit) := by
  simp only [State.finishUpdate, State.now_eq_some.2 ⟨times, hclock, rfl⟩]
  change (match s.estimate s.seq.acal (s.calGyro x y z) tNow with | some _ => _ | none => _) = _
  cases s.estimate s.seq.acal (s.calGyro x y z) tNow <;> rfl

/-- The state in which a gyro attempt has been made and its answer and a time value taken, `rest` and `times`
being what is left of them (R66, R69). -/
def State.withGyroAndTimeTaken (s : State) (rest : List SensorAnswer) (times : List Time) : State :=
  { s with env := { s.env with gyroLink := rest, attempts := .gyro :: s.env.attempts, clock := times } }

/-- The block's turn in UPD_GYRO, its two inputs given (R175, R177). -/
theorem State.blockStep_of_updGyro {x y z : Raw} {rest : List SensorAnswer} {tNow : Time} {times : List Time}
    (hphase : s.seq.phase = .updGyro) (hlink : s.env.gyroLink = .ok x y z :: rest)
    (hclock : s.env.clock = tNow :: times) :
    s.blockStep = (s.estimate s.seq.acal (s.calGyro x y z) tNow).elim
      ((s.withGyroAndTimeTaken rest times).complete .numeric) (s.withGyroAndTimeTaken rest times).commit := by
  have hread := State.sensorRead_gyro_eq_some.2 ⟨rest, hlink, rfl⟩
  have haction : s.blockAction = State.finishUpdate
      { s with env := { s.env with gyroLink := rest, attempts := .gyro :: s.env.attempts } } x y z := by
    simp [State.blockAction, hphase, State.stepUpdGyro, State.readTriple, hread]
  exact State.blockStep_of_blockAction (haction.trans (State.finishUpdate_eq (by exact hclock) x y z))

/-- Settles O38: each of the four numbers of the estimate is its formula, and the step is the estimate's. -/
theorem updGyroStepComputesTheUpdate : Obligations.UpdGyroStepComputesTheUpdate := by
  intro s x y z rest tNow times hphase hlink hclock
  have hstep := State.blockStep_of_updGyro hphase hlink hclock
  intro fs off a o gx gy gz sgn accX accY d dtpos dt gintX gintY wx wy roll pitch mag still bias yaw env
  have hroll : s.fusedRoll a (s.calGyro x y z) tNow = roll := by
    rw [State.fusedRoll, fuse_eq_bind, integrate_elapsed]; rfl
  have hpitch : s.fusedPitch a (s.calGyro x y z) tNow = pitch := by
    rw [State.fusedPitch, fuse_eq_bind, integrate_elapsed]; rfl
  have hbias : s.updatedBias a (s.calGyro x y z) = bias := by
    rw [State.updatedBias, newBias_stationary]; rfl
  have hyaw : s.updatedYaw a (s.calGyro x y z) tNow = yaw := by
    rw [State.updatedYaw, integrate_elapsed, hbias]; rfl
  refine ⟨fun r p hr hp => ?_, fun hnone => ?_⟩
  · rw [hstep, State.estimate_eq_bind, hroll.trans hr, hpitch.trans hp, hbias, hyaw]; rfl
  · rw [hstep, State.estimate_eq_none (hnone.imp hroll.trans hpitch.trans)]; rfl

/-- Settles O21: the gate of R105, with the two ends of the acceptance of R173 behind it. -/
theorem updateAcceptance : Obligations.UpdateAcceptance := by
  intro s
  have hexec : exec .update s = .next (s.gateCmd State.acceptUpdate) := rfl
  refine ⟨fun hidle hvalid => ?_, fun hidle hinvalid => ?_, fun hbusy => ?_⟩
  · rw [hexec, State.gateCmd_of_idle hidle]
    rcases State.acceptUpdate_cases (s := s) with ⟨-, haccept⟩ | ⟨hfalse, -⟩
    · rw [haccept]; rfl
    · exact absurd hvalid (Bool.eq_false_iff.1 hfalse)
  · rw [hexec, State.gateCmd_of_idle hidle]
    rcases State.acceptUpdate_cases (s := s) with ⟨htrue, -⟩ | ⟨-, haccept⟩
    · exact absurd htrue (Bool.eq_false_iff.1 hinvalid)
    · rw [haccept, ← hidle]
  · rw [hexec, State.gateCmd_of_busy hbusy]; rfl

end Sys2Proof.Machine
end

section
/-! PROOFS. The order of the tests of a CMD write (60_exceptions.md R206): the step of such a write runs the
command its DATA names, the decoder's choice is that of tests (2) and (3), and test (1) comes before either because
every command stands behind the gate of R105. -/

namespace Sys2Proof.Machine

variable {s : State}

/-- The step of a CMD write runs the command of its DATA, the event taken off the schedule (R86, R100). -/
theorem step_of_cmdWrite {d : Word} {rest : List Event}
    (h : s.env.schedule = .transact (packet true 0x00#8 d) :: rest) :
    step s = exec (decodeCommand d) (s.withSchedule rest) := by
  have hdecode : decode (packet true 0x00#8 d) = decodeCommand d := decode_packet_write 0x00#8 d
  simp only [step, h, hdecode]

/-- The reserved command words are those above the last accepted one (R82, R83). -/
theorem reservedCommand_iff_two_lt (d : Word) : reservedCommand d = true ↔ 2 < d.toNat := by
  simp only [reservedCommand_iff, ne_eq, ← BitVec.toNat_inj, BitVec.toNat_ofNat]
  omega

/-- A reserved command word stays one (R85). -/
theorem decodeCommand_of_two_lt {d : Word} (h : 2 < d.toNat) : decodeCommand d = .cmdReserved d := by
  obtain ⟨hnop, hcalibrate, hupdate⟩ := (reservedCommand_iff d).1 ((reservedCommand_iff_two_lt d).2 h)
  unfold decodeCommand
  split
  · exact absurd rfl hnop
  · exact absurd rfl hcalibrate
  · exact absurd rfl hupdate
  · rfl

/-- The decoder tests the reserved bits DATA[31:8] and then the opcode DATA[7:0] (R82, R83, R206). -/
theorem decodeCommand_eq (d : Word) :
    decodeCommand d =
      if d.toNat / 256 ≠ 0 then .cmdReserved d
      else if d.toNat % 256 = 0 then .nop
      else if d.toNat % 256 = 1 then .calibrate
      else if d.toNat % 256 = 2 then .update
      else .cmdReserved d := by
  have haccepted (n : Nat) (hbits : ¬ d.toNat / 256 ≠ 0) (hop : d.toNat % 256 = n) : d = BitVec.ofNat 32 n := by
    rw [← BitVec.toNat_inj, BitVec.toNat_ofNat]
    omega
  split_ifs with hbits hnop hcalibrate hupdate
  · exact decodeCommand_of_two_lt (by omega)
  · rw [haccepted 0 hbits hnop]; rfl
  · rw [haccepted 1 hbits hcalibrate]; rfl
  · rw [haccepted 2 hbits hupdate]; rfl
  · exact decodeCommand_of_two_lt (by omega)

/-- Whatever a command word asks for, it stands behind the gate of R105. -/
theorem exists_exec_decodeCommand_eq_gateCmd (d : Word) (s : State) :
    ∃ go, exec (decodeCommand d) s = .next (s.gateCmd go) := by
  unfold decodeCommand
  split <;> exact ⟨_, rfl⟩

/-- Test (1): while BUSY = 1 no command word gets further (R206). -/
theorem exec_decodeCommand_of_busy (h : s.seq.phase ≠ .idle) (d : Word) :
    exec (decodeCommand d) s = .next s.rejectCmd := by
  obtain ⟨go, hexec⟩ := exists_exec_decodeCommand_eq_gateCmd d s
  rw [hexec, State.gateCmd_of_busy h]

/-- Tests (2) and (3): a reserved word is rejected, by the same single flag as a command while BUSY = 1 (R206). -/
theorem exec_cmdReserved (d : Word) (s : State) : exec (.cmdReserved d) s = .next s.rejectCmd := by
  obtain ⟨-, -, hreserved⟩ := nopAndReservedCommands s d
  exact hreserved

/-- Settles O22: while busy the gate answers for every word; while idle the decoder's tests decide. -/
theorem commandDispatchOrder : Obligations.CommandDispatchOrder := by
  intro s d rest hschedule s' rejected
  have hstep : step s = exec (decodeCommand d) s' := step_of_cmdWrite hschedule
  have hreserved : exec (.cmdReserved d) s' = .next rejected := exec_cmdReserved d s'
  by_cases hbusy : s.seq.phase ≠ .idle
  · rw [if_pos hbusy, hstep]
    exact exec_decodeCommand_of_busy (s := s') hbusy d
  · rw [if_neg hbusy, hstep, decodeCommand_eq]
    simp only [apply_ite (exec · s'), hreserved]

end Sys2Proof.Machine
end

section
/-! PROOFS. The packets (30_encoding.md R80 to R89, 40_host_access.md R100): what encoding a decoded packet
gives back, which row of the opcode table a packet meets first, and the step that a packet asks for. -/

namespace Sys2Proof

open Sys2Proof.Machine

/-- Decode and encode agree on every row of the table. -/
theorem roundTrip : ∀ i : Instr, Laws.RoundTrip.Statement i
  | .nop => Laws.RoundTrip.nop
  | .calibrate => Laws.RoundTrip.calibrate
  | .update => Laws.RoundTrip.update
  | .rdCmd => Laws.RoundTrip.rdCmd
  | .rdStatus => Laws.RoundTrip.rdStatus
  | .rdConfig => Laws.RoundTrip.rdConfig
  | .rdRetryMax => Laws.RoundTrip.rdRetryMax
  | .rdCalN => Laws.RoundTrip.rdCalN
  | .rdAlpha => Laws.RoundTrip.rdAlpha
  | .rdBeta => Laws.RoundTrip.rdBeta
  | .rdAccStatTh => Laws.RoundTrip.rdAccStatTh
  | .rdGzStatTh => Laws.RoundTrip.rdGzStatTh
  | .rdRoll => Laws.RoundTrip.rdRoll
  | .rdPitch => Laws.RoundTrip.rdPitch
  | .rdYaw => Laws.RoundTrip.rdYaw
  | .rdYawBias => Laws.RoundTrip.rdYawBias
  | .rdTLastLo => Laws.RoundTrip.rdTLastLo
  | .rdTLastHi => Laws.RoundTrip.rdTLastHi
  | .rdGoffX => Laws.RoundTrip.rdGoffX
  | .rdGoffY => Laws.RoundTrip.rdGoffY
  | .rdGoffZ => Laws.RoundTrip.rdGoffZ
  | .rdAoffX => Laws.RoundTrip.rdAoffX
  | .rdAoffY => Laws.RoundTrip.rdAoffY
  | .rdAoffZ => Laws.RoundTrip.rdAoffZ
  | .rdId => Laws.RoundTrip.rdId
  | .wrStatus data => Laws.RoundTrip.wrStatus data
  | .wrConfig data => Laws.RoundTrip.wrConfig data
  | .wrRetryMax data => Laws.RoundTrip.wrRetryMax data
  | .wrCalN data => Laws.RoundTrip.wrCalN data
  | .wrAlpha data => Laws.RoundTrip.wrAlpha data
  | .wrBeta data => Laws.RoundTrip.wrBeta data
  | .wrAccStatTh data => Laws.RoundTrip.wrAccStatTh data
  | .wrGzStatTh data => Laws.RoundTrip.wrGzStatTh data
  | .wrRoll => Laws.RoundTrip.wrRoll
  | .wrPitch => Laws.RoundTrip.wrPitch
  | .wrYaw => Laws.RoundTrip.wrYaw
  | .wrYawBias => Laws.RoundTrip.wrYawBias
  | .wrTLastLo => Laws.RoundTrip.wrTLastLo
  | .wrTLastHi => Laws.RoundTrip.wrTLastHi
  | .wrGoffX => Laws.RoundTrip.wrGoffX
  | .wrGoffY => Laws.RoundTrip.wrGoffY
  | .wrGoffZ => Laws.RoundTrip.wrGoffZ
  | .wrAoffX => Laws.RoundTrip.wrAoffX
  | .wrAoffY => Laws.RoundTrip.wrAoffY
  | .wrAoffZ => Laws.RoundTrip.wrAoffZ
  | .wrId => Laws.RoundTrip.wrId
  | .cmdReserved data => Laws.RoundTrip.cmdReserved data
  | .rdUnmapped addr => Laws.RoundTrip.rdUnmapped addr
  | .wrUnmapped addr => Laws.RoundTrip.wrUnmapped addr

/-- Settles O1, row by row; the three rows with overlapped patterns by their well-formedness. -/
theorem decodeInvertsEncode : Obligations.DecodeInvertsEncode := roundTrip

/-- An address holds a register or is misaligned or unmapped (R61, R62). -/
theorem exists_eq_addr_or_unmapped (a : RegAddr) :
    (∃ r : Reg, a = r.addr) ∨ (Reg.ofAddr a = none ∧ unmappedAddr a = true) := by
  cases h : Reg.ofAddr a with
  | none => exact .inr ⟨rfl, (ofAddr_eq_none_iff a).1 h⟩
  | some r => exact .inl ⟨r, (ofAddr_eq_some_iff a r).1 h⟩

/-- A read packet decodes to a well-formed read, whose packet has its ADDR (R81). -/
theorem decodeRead_spec (a : RegAddr) :
    (decodeRead a).wellFormed = true ∧ encode (decodeRead a) = packet false a 0#32 := by
  rcases exists_eq_addr_or_unmapped a with ⟨r, rfl⟩ | ⟨hnone, hunmapped⟩
  · cases r <;> exact ⟨rfl, rfl⟩
  · rw [decodeRead, hnone]
    exact ⟨hunmapped, rfl⟩

/-- A command word decodes to a well-formed command, whose packet has the same DATA (R82, R83, R85). -/
theorem decodeCommand_spec (d : Word) :
    (decodeCommand d).wellFormed = true ∧ encode (decodeCommand d) = packet true 0x00#8 d := by
  unfold decodeCommand
  split
  case h_4 h0 h1 h2 => exact ⟨(reservedCommand_iff d).2 ⟨h0, h1, h2⟩, rfl⟩
  all_goals exact ⟨rfl, rfl⟩

/-- A write packet decodes to a well-formed write, whose packet has its ADDR, and its DATA where the address is
that of a register that takes it (R84). -/
theorem decodeWrite_spec (a : RegAddr) (d : Word) :
    (decodeWrite a d).wellFormed = true ∧
    ∃ d', encode (decodeWrite a d) = packet true a d' ∧ (a.extractLsb' 0 2 = 0#2 → a ≤ 0x20#8 → d' = d) := by
  rcases exists_eq_addr_or_unmapped a with ⟨r, rfl⟩ | ⟨hnone, hunmapped⟩
  · cases r
    case cmd =>
      obtain ⟨hwf, hencode⟩ := decodeCommand_spec d
      exact ⟨hwf, d, hencode, fun _ _ => rfl⟩
    case status | config | retryMax | calN | alpha | beta | accStatTh | gzStatTh =>
      exact ⟨rfl, d, rfl, fun _ _ => rfl⟩
    all_goals exact ⟨rfl, 0#32, rfl, fun _ hle => absurd hle (by decide)⟩
  · rw [decodeWrite, hnone]
    refine ⟨hunmapped, 0#32, rfl, fun haligned hle => absurd hunmapped ?_⟩
    have hmapped : ¬ 0x58#8 ≤ a := by
      rw [BitVec.le_def] at hle ⊢
      exact fun h => absurd (h.trans hle) (by decide)
    simp [unmappedAddr, haligned, hmapped]

/-- Settles O2: by WE, the decode of a read and of a write. -/
theorem encodeKeepsSignificantBits : Obligations.EncodeKeepsSignificantBits := by
  intro p
  cases hwe : packetWe p with
  | false =>
    have hdecode : decode p = decodeRead (packetAddr p) := by simp [decode, hwe]
    obtain ⟨hwf, hencode⟩ := decodeRead_spec (packetAddr p)
    simp [hdecode, hwf, hencode]
  | true =>
    have hdecode : decode p = decodeWrite (packetAddr p) (packetData p) := by simp [decode, hwe]
    obtain ⟨hwf, d, hencode, hdata⟩ := decodeWrite_spec (packetAddr p) (packetData p)
    simpa [hdecode, hwf, hencode] using hdata

/-- The bits of WE and ADDR. -/
def addrMask : Packet := 0x1FF00000000#41

/-- Under the mask of WE and ADDR a packet is that packet with its DATA cleared (R81). -/
theorem packet_and_addrMask (we : Bool) (a : RegAddr) (d : Word) : packet we a d &&& addrMask = packet we a 0#32 := by
  apply BitVec.eq_of_getLsbD_eq
  intro k hk
  rw [BitVec.getLsbD_and, packet_getLsbD, packet_getLsbD]
  have hmask : addrMask.getLsbD k = decide (32 ≤ k) := by revert k; decide
  rcases Nat.lt_or_ge k 32 with h | h
  · simp [hmask, h, Nat.not_le.2 h]
  · simp [hmask, h, Nat.not_lt.2 h]

/-- A row whose mask has no bit of DATA matches by WE and ADDR alone. -/
theorem matches_of_mask_le {row : OpcodeRow} (h : addrMask &&& row.mask = row.mask) (we : Bool) (a : RegAddr)
    (d d' : Word) : row.matches (packet we a d) = row.matches (packet we a d') := by
  simp only [OpcodeRow.matches]
  rw [← h, ← BitVec.and_assoc, ← BitVec.and_assoc, packet_and_addrMask, packet_and_addrMask]

/-- A row that fixes all 41 bits matches its one packet. -/
theorem matches_of_mask_full {row : OpcodeRow} (h : row.mask = 0x1FFFFFFFFFF#41) (p : Packet) :
    row.matches p = (p == row.pat) := by
  rw [OpcodeRow.matches, h, show 0x1FFFFFFFFFF#41 = BitVec.allOnes 41 by decide, BitVec.and_allOnes]

/-- The rows after the three commands, in the order of R86. -/
def addressRows : List OpcodeRow := opcodeRows.drop 3

/-- The rows after the three commands do not look at DATA. -/
theorem find_addressRows (we : Bool) (a : RegAddr) (d d' : Word) :
    (addressRows.find? fun row => row.matches (packet we a d)) =
      addressRows.find? fun row => row.matches (packet we a d') := by
  have hmask : ∀ row ∈ addressRows, addrMask &&& row.mask = row.mask := by decide
  exact List.find?_congr fun row hrow => matches_of_mask_le (hmask row hrow) we a d d'

/-- The rows that name an address, CMD_RESERVED the last of them, match no unmapped one (R86). -/
theorem not_matches_of_unmapped {row : OpcodeRow} (hrow : row ∈ addressRows.take 44) {we : Bool} {a : RegAddr}
    {d : Word} (ha : unmappedAddr a = true) : row.matches (packet we a d) = false := by
  have hnamed : ∀ row ∈ addressRows.take 44, row.mask = addrMask ∧ unmappedAddr (packetAddr row.pat) = false := by
    decide
  obtain ⟨hmask, hpat⟩ := hnamed row hrow
  rw [OpcodeRow.matches, hmask, packet_and_addrMask, beq_eq_false_iff_ne]
  intro h
  rw [← h, packetAddr_packet, ha] at hpat
  cases hpat

/-- The two catch-alls ask for WE alone (R85). -/
theorem packet_and_weMask (we : Bool) (a : RegAddr) (d : Word) :
    packet we a d &&& 0x10000000000#41 = packet we 0x00#8 0#32 := by
  apply BitVec.eq_of_getLsbD_eq
  intro k hk
  rw [BitVec.getLsbD_and, packet_getLsbD, packet_getLsbD]
  have hmask : (0x10000000000#41 : Packet).getLsbD k = decide (k = 40) := by revert k; decide
  by_cases h : k = 40
  · simp [h]
  · simp [hmask, h]

/-- The first of those rows is the decoder's, a command word being a reserved one. -/
theorem find_addressRows_reserved (we : Bool) (a : RegAddr) :
    (addressRows.find? fun row => row.matches (packet we a 3#32)).map OpcodeRow.mnemonic =
      some (decode (packet we a 3#32)).mnemonic := by
  rcases exists_eq_addr_or_unmapped a with ⟨r, rfl⟩ | ⟨hnone, hunmapped⟩
  · cases we <;> cases r <;> rfl
  · rw [← List.take_append_drop 44 addressRows, List.find?_append, List.find?_eq_none.2 fun row hrow => by
      simp [not_matches_of_unmapped hrow hunmapped]]
    have hcatch : addressRows.drop 44 = [⟨"RD_UNMAPPED", 0x00000000000#41, 0x10000000000#41⟩,
      ⟨"WR_UNMAPPED", 0x10000000000#41, 0x10000000000#41⟩] := rfl
    have hdecode : decode (packet we a 3#32) = bif we then .wrUnmapped a else .rdUnmapped a := by
      cases we <;> simp [decodeRead, decodeWrite, hnone]
    simp only [Option.none_or, hcatch, List.find?, OpcodeRow.matches, packet_and_weMask, hdecode]
    cases we <;> rfl

/-- The three command rows come first and take their one packet each; no other packet meets them (R86). -/
theorem find_opcodeRows (we : Bool) (a : RegAddr) (d : Word)
    (h : ¬ (we = true ∧ a = 0x00#8 ∧ (d = 0#32 ∨ d = 1#32 ∨ d = 2#32))) :
    (opcodeRows.find? fun row => row.matches (packet we a d)) =
      addressRows.find? fun row => row.matches (packet we a d) := by
  have hno (c : Word) (hc : c = 0#32 ∨ c = 1#32 ∨ c = 2#32) : packet we a d ≠ packet true 0x00#8 c := by
    intro heq
    refine h ⟨?_, ?_, ?_⟩
    · simpa using congrArg packetWe heq
    · simpa using congrArg packetAddr heq
    · obtain rfl : d = c := by simpa using congrArg packetData heq
      exact hc
  have hskip : ∀ row ∈ opcodeRows.take 3, row.matches (packet we a d) = false := by
    simp only [opcodeRows, List.cons_append, List.take_succ_cons, List.take_zero, List.forall_mem_cons,
      matches_of_mask_full, beq_eq_false_iff_ne]
    exact ⟨hno 0#32 (by simp), hno 1#32 (by simp), hno 2#32 (by simp), by simp⟩
  rw [← List.take_append_drop 3 opcodeRows, List.find?_append,
    List.find?_eq_none.2 fun row hrow => by simp [hskip row hrow]]
  rfl

/-- Outside the three commands the row of a packet depends on WE and ADDR alone. -/
theorem mnemonic_decode_packet (we : Bool) (a : RegAddr) (d : Word)
    (h : ¬ (we = true ∧ a = 0x00#8 ∧ (d = 0#32 ∨ d = 1#32 ∨ d = 2#32))) :
    (decode (packet we a d)).mnemonic = (decode (packet we a 3#32)).mnemonic := by
  cases we
  · simp
  · rw [decode_packet_write, decode_packet_write, decodeWrite, decodeWrite]
    cases hr : Reg.ofAddr a with
    | none => rfl
    | some r =>
      obtain rfl := (ofAddr_eq_some_iff a r).1 hr
      cases r
      case cmd =>
        have hd : d ≠ 0#32 ∧ d ≠ 1#32 ∧ d ≠ 2#32 := by simpa [Reg.addr] using h
        simp only [decodeCommand_of_two_lt ((reservedCommand_iff_two_lt d).1 ((reservedCommand_iff d).2 hd))]
        rfl
      all_goals rfl

/-- Settles O3: the three commands are met first; every other packet is decided by WE and ADDR. -/
theorem decodeFollowsOpcodeTable : Obligations.DecodeFollowsOpcodeTable := by
  intro p
  rw [← packet_fields p]
  generalize packetWe p = we
  generalize packetAddr p = a
  generalize packetData p = d
  by_cases hcmd : we = true ∧ a = 0x00#8 ∧ (d = 0#32 ∨ d = 1#32 ∨ d = 2#32)
  · obtain ⟨rfl, rfl, rfl | rfl | rfl⟩ := hcmd <;> decide
  · rw [find_opcodeRows we a d hcmd, mnemonic_decode_packet we a d hcmd, find_addressRows we a d 3#32]
    exact find_addressRows_reserved we a

/-- Settles O4: the decoder's read branch has no DATA, and the masks are those of the table. -/
theorem readPacketsIgnoreData : Obligations.ReadPacketsIgnoreData := by
  refine ⟨fun a d d' => ?_, by decide⟩
  rw [decode_packet_read, decode_packet_read]

/-- Settles O5, word by word. -/
theorem writtenOutPacketsDecode : Obligations.WrittenOutPacketsDecode :=
  ⟨rfl, rfl, rfl, rfl, rfl, rfl, rfl, rfl, rfl, rfl, rfl⟩

/-- A packet at the head of the schedule is the step's (R100). -/
theorem step_of_transact {s : State} {p : Packet} {rest : List Event} (h : s.env.schedule = .transact p :: rest) :
    step s = exec (decode p) (s.withSchedule rest) := by
  simp only [step, h]

/-- A packet of 41 bits is kept whole where it is put in front as a word of 48 (R80). -/
theorem withFetchWord_toNat (s : State) (p : Packet) :
    s.withFetchWord 48 p.toNat = s.withSchedule (.transact p :: s.env.schedule) := by
  have hp : p.toNat % 2 ^ 48 = p.toNat := Nat.mod_eq_of_lt (by omega)
  rw [State.withFetchWord, hp, BitVec.ofNat_toNat, BitVec.setWidth_eq]

/-- Settles O6: the step decodes the packet it finds; an encoded instruction decodes to itself. -/
theorem stepRunsTheDecodedInstruction : Obligations.StepRunsTheDecodedInstruction := by
  refine ⟨fun s p rest h => step_of_transact h, fun s i rest hwf h => ?_, fun s i hwf => ?_⟩
  · rw [step_of_transact h, roundTrip i hwf]
    rfl
  · rw [withFetchWord_toNat, step_of_transact rfl, roundTrip i hwf]
    rfl

end Sys2Proof
end

section
/-! PROOFS. What every step answers, hardware reset, the STATUS word and the read packets (10_state.md R23, R24;
20_memory.md R60 to R64; 40_host_access.md R101 to R104; 60_exceptions.md R202; 70_reset_and_hazards.md R230). -/

namespace Sys2Proof.Machine

/-- Settles O7, by the kinds of step. -/
theorem everyStepAnswersANextState : Obligations.EveryStepAnswersANextState := by
  intro s
  rcases step_cases s with ⟨-, h⟩ | ⟨p, rest, -, h⟩ | ⟨rest, -, h⟩ | ⟨rest, -, h⟩
  case inr.inl =>
    obtain ⟨t, ht, -⟩ := exec_cases (decode p) (s.withSchedule rest)
    exact ⟨t, h.trans ht⟩
  all_goals exact ⟨_, h⟩

/-- Settles O8: the next state is the one that reset lists, with the agents of the old one. -/
theorem hardwareResetWritesEveryValue : Obligations.HardwareResetWritesEveryValue := by
  intro s rest h
  have hstep : step s = .next (s.withSchedule rest).hardwareReset := by simp only [step, h]
  have hread : (s.withSchedule rest).hardwareReset.readReg = State.reset.readReg := by
    funext r
    cases r <;> rfl
  refine ⟨_, hstep, ?_, rfl, rfl, rfl⟩
  rw [hread]
  decide

/-- The STATUS word bit by bit, 0 above LAST_OP (R23, R47, R101). -/
theorem statusWord_getLsbD (s : State) {k : Nat} (hk : k < 32) :
    s.statusWord.getLsbD k =
      if k = 0 then s.busy
      else if k = 1 then s.status.calValid
      else if k = 2 then s.status.tValid
      else if k = 3 then s.status.done
      else if k < 7 then s.status.err.getLsbD (k - 4)
      else if k = 7 then false
      else if k = 8 then s.status.cmdRej
      else if k = 9 then s.status.wrRej
      else if k < 12 then false
      else if k < 14 then s.status.lastOp.getLsbD (k - 12)
      else false := by
  simp only [State.statusWord, BitVec.getLsbD_append, BitVec.getLsbD_ofBool, BitVec.getLsbD_zero]
  interval_cases k <;> rfl

/-- Settles O9, field by field; a field of several bits is its bits. -/
theorem statusWordLayout : Obligations.StatusWordLayout := by
  intro s
  have hread : s.readReg .status = s.statusWord := rfl
  rw [hread]
  refine ⟨statusWord_getLsbD s (by decide), statusWord_getLsbD s (by decide), statusWord_getLsbD s (by decide),
    statusWord_getLsbD s (by decide), ?_, statusWord_getLsbD s (by decide), statusWord_getLsbD s (by decide),
    statusWord_getLsbD s (by decide), ?_, ?_, ?_⟩
  all_goals
    apply BitVec.eq_of_getLsbD_eq
    intro k hk
    rw [BitVec.getLsbD_extractLsb', decide_eq_true hk, Bool.true_and, statusWord_getLsbD s (by omega)]
    interval_cases k <;> rfl

/-- Settles O11: each read answers with the word of its register; the two counts are read with zeros above
them. -/
theorem readsReturnTheRegister : Obligations.ReadsReturnTheRegister := by
  intro s a reads
  have hretryMax : s.retryMax.setWidth 32 = 0#24 ++ s.retryMax := BitVec.setWidth_eq_append (by decide)
  have hcalN : s.calN.setWidth 32 = 0#16 ++ s.calN := BitVec.setWidth_eq_append (by decide)
  rw [← hretryMax, ← hcalN]
  refine ⟨?_, ?_, ?_, ?_, ?_, ?_, ?_, ?_, ?_, ?_, ?_, ?_, ?_, ?_, ?_, ?_, ?_, ?_, ?_, ?_, ?_, ?_, ?_⟩
  all_goals rfl

/-- A read packet's instruction responds with `MemRead` of its address and does nothing else (R64, R101 to R104). -/
theorem exec_decodeRead (a : RegAddr) (s : State) : exec (decodeRead a) s = .next (s.respond (s.memRead a)) := by
  rcases exists_eq_addr_or_unmapped a with ⟨r, rfl⟩ | ⟨hnone, -⟩
  · cases r <;> rfl
  · simp only [decodeRead, State.memRead, hnone]
    rfl

/-- The registers in the order of their addresses (R61). -/
def addressMap : List Reg :=
  [.cmd, .status, .config, .retryMax, .calN, .alpha, .beta, .accStatTh, .gzStatTh, .roll, .pitch, .yaw, .yawBias,
    .tLastLo, .tLastHi, .goffX, .goffY, .goffZ, .aoffX, .aoffY, .aoffZ, .id]

/-- `MemRead` by position in the address map: a word at every fourth address, 0 elsewhere and above (R61, R62,
R104). -/
theorem memRead_eq (s : State) (a : RegAddr) :
    s.memRead a = if a.toNat % 4 = 0 then (addressMap.map s.readReg).getD (a.toNat / 4) 0#32 else 0#32 := by
  rcases exists_eq_addr_or_unmapped a with ⟨r, rfl⟩ | ⟨hnone, hunmapped⟩
  · cases r <;> rfl
  · rw [State.memRead, hnone]
    split_ifs with haligned
    · have hlow : a.extractLsb' 0 2 = 0#2 := by simpa [← BitVec.toNat_inj] using haligned
      have hhigh : 0x58 ≤ a.toNat := by simpa [unmappedAddr, hlow, BitVec.le_def] using hunmapped
      have hlength : (addressMap.map s.readReg).length = 22 := rfl
      rw [List.getD_eq_default _ _ (by omega)]
    · rfl

/-- Settles O12: WE = 0 decodes to a read, which responds with `MemRead`. -/
theorem readTransactionsCoverTheRegisterSpace : Obligations.ReadTransactionsCoverTheRegisterSpace := by
  intro s p rest hschedule hwe words a
  have hdecode : decode p = decodeRead (packetAddr p) := by simp [decode, hwe]
  rw [step_of_transact hschedule, hdecode, exec_decodeRead, memRead_eq]
  rfl

/-! The writes of binary32 values (40_host_access.md R112 to R115). -/

theorem fSign_eq_decide (a : F32) : fSign a = decide (2 ^ 31 ≤ a.toNat) := BitVec.msb_eq_decide a

theorem isNaN_eq_false_iff (a : F32) : isNaN a = false ↔ fBits a ≤ infBits := by simp [isNaN]

/-- The patterns without the sign bit are magnitude bits, and their values are magnitudes (R63). -/
theorem fBits_of_lt {a : F32} (h : a.toNat < 2 ^ 31) : fBits a = a.toNat := Nat.mod_eq_of_lt h

theorem fVal_of_lt {a : F32} (h : a.toNat < 2 ^ 31) : fVal a = magOfBits a.toNat := by
  rw [fVal, fSign_eq_decide, decide_eq_false (Nat.not_le.2 h), fMag, fBits_of_lt h]
  rfl

/-- The values that are not negative: the patterns without the sign bit, and -0.0 (R63). -/
theorem fVal_nonneg_iff (a : F32) : 0 ≤ fVal a ↔ a.toNat < 2 ^ 31 ∨ a = 0x80000000#32 := by
  rcases Nat.lt_or_ge a.toNat (2 ^ 31) with h | h
  · exact iff_of_true (fVal_of_lt h ▸ Int.natCast_nonneg _) (.inl h)
  · have hzero : fMag a = 0 ↔ fBits a = 0 := magOfBits_strictMono.injective.eq_iff' magOfBits_zero
    have hbits : fBits a = 0 ↔ a = 0x80000000#32 := by
      have := a.isLt
      rw [fBits, ← BitVec.toNat_inj, BitVec.toNat_ofNat]
      omega
    rw [fVal, fSign_eq_decide, decide_eq_true h, if_pos rfl, Int.neg_nonneg, Int.natCast_nonpos_iff, hzero, hbits]
    simp only [Nat.not_lt.2 h, false_or]

theorem legalThreshold_iff_val (d : F32) : legalThreshold d = true ↔ isNaN d = false ∧ 0 ≤ fVal d := by
  have hzero : isNaN PZERO = false ∧ fVal PZERO = 0 := by decide
  simp [legalThreshold, fle, hzero]

/-- A threshold is legal from +0.0 to +infinity and at -0.0 (R114, R115). -/
theorem legalThreshold_iff (d : F32) : legalThreshold d = true ↔ d.toNat ≤ 0x7F800000 ∨ d = 0x80000000#32 := by
  rw [legalThreshold_iff_val, isNaN_eq_false_iff, fVal_nonneg_iff, fBits, infBits, ← BitVec.toNat_inj,
    BitVec.toNat_ofNat]
  omega

theorem legalCoefficient_iff_val (d : F32) :
    legalCoefficient d = true ↔ legalThreshold d = true ∧ fVal d ≤ fVal ONE := by
  have hone : isNaN ONE = false := by decide
  have hle : fle PZERO d = legalThreshold d := rfl
  rw [legalCoefficient, hle, Bool.and_eq_true, and_congr_right_iff, legalThreshold_iff_val]
  rintro ⟨hnan, -⟩
  simp [fle, hone, hnan]

/-- A coefficient is legal from +0.0 to 1.0 and at -0.0 (R112, R113). -/
theorem legalCoefficient_iff (d : F32) : legalCoefficient d = true ↔ d.toNat ≤ 0x3F800000 ∨ d = 0x80000000#32 := by
  rw [legalCoefficient_iff_val, legalThreshold_iff, fVal_of_lt (a := ONE) (by decide)]
  by_cases hzero : d = 0x80000000#32
  · subst hzero
    decide
  · rcases Nat.lt_or_ge d.toNat (2 ^ 31) with h | h
    · rw [fVal_of_lt h, Int.ofNat_le, magOfBits_strictMono.le_iff_le]
      simp only [hzero, or_false, show ONE.toNat = 0x3F800000 from rfl]
      omega
    · simp only [hzero, or_false]
      omega

/-- Settles O16: the gate of R107, with the legal patterns of R112. -/
theorem coefficientWrites : Obligations.CoefficientWrites := by
  intro s d legal
  have halpha : exec (.wrAlpha d) s = .next (s.gateConfig (legalCoefficient d) fun s => { s with alpha := d }) := rfl
  have hbeta : exec (.wrBeta d) s = .next (s.gateConfig (legalCoefficient d) fun s => { s with beta := d }) := rfl
  have hlegal : legalCoefficient d = true ↔ legal := legalCoefficient_iff d
  rw [halpha, hbeta]
  refine ⟨fun hidle h => ?_, fun h => ?_⟩
  · simp only [State.gateConfig_of_idle hidle (hlegal.2 h), and_self]
  · have hreject : s.seq.phase ≠ .idle ∨ legalCoefficient d = false :=
      h.imp_right fun hno => Bool.eq_false_iff.2 (mt hlegal.1 hno)
    simp only [State.gateConfig_of_busy_or_illegal hreject, State.rejectWrite, and_self]

/-- Settles O17: the gate of R107, with the legal patterns of R114. -/
theorem thresholdWrites : Obligations.ThresholdWrites := by
  intro s d legal
  have hacc : exec (.wrAccStatTh d) s =
      .next (s.gateConfig (legalThreshold d) fun s => { s with accStatTh := d }) := rfl
  have hgz : exec (.wrGzStatTh d) s = .next (s.gateConfig (legalThreshold d) fun s => { s with gzStatTh := d }) := rfl
  have hlegal : legalThreshold d = true ↔ legal := legalThreshold_iff d
  rw [hacc, hgz]
  refine ⟨fun hidle h => ?_, fun h => ?_⟩
  · simp only [State.gateConfig_of_idle hidle (hlegal.2 h), and_self]
  · have hreject : s.seq.phase ≠ .idle ∨ legalThreshold d = false :=
      h.imp_right fun hno => Bool.eq_false_iff.2 (mt hlegal.1 hno)
    simp only [State.gateConfig_of_busy_or_illegal hreject, State.rejectWrite, and_self]

end Sys2Proof.Machine
end

section
/-! PROOFS. What a step can do to the flags and the results, said once for a host transaction and once for a block
step, and the statements over all steps that follow from it (10_state.md R25 to R31, R39 to R45; 40_host_access.md
R107; 41_calibrate.md R143, R144; 60_exceptions.md R202 to R204). -/

namespace Sys2Proof.Machine

variable {s t u : State}

/-! ### A host transaction -/

/-- A transaction that changes no more of STATUS than to raise a rejection flag, and not CONFIG (R29, R30). -/
def RaisesAtMostRejections (s t : State) : Prop :=
  t.config = s.config ∧ ∃ c w : Bool, t.status = { s.status with
    cmdRej := s.status.cmdRej || c, wrRej := s.status.wrRej || w }

theorem RaisesAtMostRejections.of_eq (hconfig : t.config = s.config) (hstatus : t.status = s.status) :
    RaisesAtMostRejections s t :=
  ⟨hconfig, false, false, by rw [hstatus, Bool.or_false, Bool.or_false]⟩

theorem RaisesAtMostRejections.rejectCmd (s : State) : RaisesAtMostRejections s s.rejectCmd :=
  ⟨rfl, true, false, by simp⟩

theorem RaisesAtMostRejections.rejectWrite (s : State) : RaisesAtMostRejections s s.rejectWrite :=
  ⟨rfl, false, true, by simp⟩

/-- A write to one of the other configuration registers is stored or rejected (R107). -/
theorem RaisesAtMostRejections.gateConfig (legal : Bool) {store : State → State}
    (hstore : RaisesAtMostRejections s (store s)) : RaisesAtMostRejections s (s.gateConfig legal store) := by
  rcases State.gateConfig_cases (s := s) legal store with ⟨-, -, h⟩ | ⟨-, h⟩ <;> rw [h]
  · exact hstore
  · exact .rejectWrite s

/-- What an instruction does to STATUS and CONFIG, by the instruction: four have an effect of their own there. -/
inductive TransactResult (i : Instr) (s t : State) : Prop where
  | acknowledged (d : Word) (hi : i = .wrStatus d) (ht : t = s.acknowledge d)
  | configured (d : Word) (hi : i = .wrConfig d) (hidle : s.busy = false) (ht : t = { s with config := configOfData d })
  | calibrateAccepted (hi : i = .calibrate) (hidle : s.busy = false) (ht : t = s.acceptCalibrate)
  | updateAccepted (hi : i = .update) (hidle : s.busy = false) (ht : t = s.acceptUpdate)
  | other (h : RaisesAtMostRejections s t)

/-- Every instruction has one of those effects (R100, R105 to R116). -/
theorem exec_result {i : Instr} (h : exec i s = .next t) : TransactResult i s t := by
  cases i <;> obtain rfl := Host.Outcome.next.inj h
  case wrStatus d => exact .acknowledged d rfl rfl
  case wrConfig d =>
    rcases State.gateConfig_cases (s := s) true fun s => { s with config := configOfData d } with
      ⟨hidle, -, hgate⟩ | ⟨-, hgate⟩ <;> rw [hgate]
    · exact .configured d rfl hidle rfl
    · exact .other (.rejectWrite s)
  case calibrate =>
    rcases State.gateCmd_cases (s := s) State.acceptCalibrate with ⟨-, hgate⟩ | ⟨hidle, hgate⟩ <;> rw [hgate]
    · exact .other (.rejectCmd s)
    · exact .calibrateAccepted rfl hidle rfl
  case update =>
    rcases State.gateCmd_cases (s := s) State.acceptUpdate with ⟨-, hgate⟩ | ⟨hidle, hgate⟩ <;> rw [hgate]
    · exact .other (.rejectCmd s)
    · exact .updateAccepted rfl hidle rfl
  case nop =>
    rcases State.gateCmd_cases (s := s) fun s => s with ⟨-, hgate⟩ | ⟨-, hgate⟩ <;> rw [hgate]
    · exact .other (.rejectCmd s)
    · exact .other (.of_eq rfl rfl)
  case cmdReserved d =>
    rcases State.gateCmd_cases (s := s) State.rejectCmd with ⟨-, hgate⟩ | ⟨-, hgate⟩ <;> rw [hgate]
    all_goals exact .other (.rejectCmd s)
  case wrRetryMax | wrCalN | wrAlpha | wrBeta | wrAccStatTh | wrGzStatTh =>
    exact .other (.gateConfig _ (.of_eq rfl rfl))
  case wrRoll | wrPitch | wrYaw | wrYawBias | wrTLastLo | wrTLastHi | wrGoffX | wrGoffY | wrGoffZ | wrAoffX |
      wrAoffY | wrAoffZ | wrId | wrUnmapped =>
    exact .other (.rejectWrite s)
  all_goals exact .other (.of_eq rfl rfl)

theorem acceptUpdate_results (s : State) :
    s.acceptUpdate.orient = s.orient ∧ s.acceptUpdate.offsets = s.offsets ∧
    s.acceptUpdate.status.calValid = s.status.calValid ∧ s.acceptUpdate.status.tValid = s.status.tValid := by
  rcases State.acceptUpdate_cases (s := s) with ⟨-, h⟩ | ⟨-, h⟩ <;> rw [h] <;> exact ⟨rfl, rfl, rfl, rfl⟩

/-- No host transaction writes a result or a validity flag, and of the agents around the block it changes the
response alone (R70, R80, R107, R116). -/
theorem exec_frame {i : Instr} (h : exec i s = .next t) :
    t.orient = s.orient ∧ t.offsets = s.offsets ∧ t.status.calValid = s.status.calValid ∧
    t.status.tValid = s.status.tValid ∧ t.env = { s.env with lastRead := t.env.lastRead } := by
  obtain ⟨u, hu, hcases⟩ := exec_cases i s
  obtain rfl : u = t := Host.Outcome.next.inj (hu.symm.trans h)
  rcases hcases with rfl | ⟨v, rfl⟩ | rfl | rfl | ⟨d, rfl⟩ | ⟨-, haccepted⟩
  case inr.inr.inr.inr.inr =>
    rcases haccepted with ⟨c, rfl⟩ | ⟨v, -, rfl⟩ | ⟨v, -, rfl⟩ | ⟨v, -, rfl | rfl⟩ | ⟨v, -, rfl | rfl⟩ | rfl | rfl
    case inr.inr.inr.inr.inr.inr =>
      obtain ⟨horient, hoffsets, hcal, ht⟩ := acceptUpdate_results s
      exact ⟨horient, hoffsets, hcal, ht, by rw [State.acceptUpdate_env]⟩
    all_goals exact ⟨rfl, rfl, rfl, rfl, rfl⟩
  all_goals exact ⟨rfl, rfl, rfl, rfl, rfl⟩

/-! ### A block step -/

/-- What no block step changes (R24, R29 to R31, R107). -/
structure BlockFrame (s t : State) : Prop where
  config : t.config = s.config
  retryMax : t.retryMax = s.retryMax
  calN : t.calN = s.calN
  alpha : t.alpha = s.alpha
  beta : t.beta = s.beta
  accStatTh : t.accStatTh = s.accStatTh
  gzStatTh : t.gzStatTh = s.gzStatTh
  cmdRej : t.status.cmdRej = s.status.cmdRej
  wrRej : t.status.wrRej = s.status.wrRej
  lastOp : t.status.lastOp = s.status.lastOp
  schedule : t.env.schedule = s.env.schedule
  lastRead : t.env.lastRead = s.env.lastRead

/-- An update of the other fields keeps the frame. -/
theorem BlockFrame.of_update {calValid tValid done : Bool} {err : BitVec 3} {orient : Orientation}
    {offsets : Offsets} {seq : Sequencer} {gyro accel : List SensorAnswer} {clock : List Time}
    {attempts : List SensorKind} :
    BlockFrame s { s with
      status := { s.status with calValid := calValid, tValid := tValid, done := done, err := err }
      orient := orient, offsets := offsets, seq := seq
      env := { s.env with gyroLink := gyro, accelLink := accel, clock := clock, attempts := attempts } } :=
  ⟨rfl, rfl, rfl, rfl, rfl, rfl, rfl, rfl, rfl, rfl, rfl, rfl⟩

/-- What a block step does to STATUS and the results: the command runs on, fails, or completes (R201). -/
inductive BlockResult (s t : State) : Prop where
  | runsOn (hstatus : t.status = s.status) (horient : t.orient = s.orient) (hoffsets : t.offsets = s.offsets)
      (hbusy : t.busy = s.busy)
  | failed (e : BitVec 3) (he : e ≠ 0#3) (hbusy : s.busy = true) (hidle : t.seq.phase = .idle)
      (hstatus : t.status = { s.status with err := e, done := true })
      (horient : t.orient = s.orient) (hoffsets : t.offsets = s.offsets)
  | calibrated (hphase : s.seq.phase = .calFinish) (hidle : t.seq.phase = .idle)
      (hstatus : t.status = { s.status with calValid := true, err := 0#3, done := true })
      (horient : t.orient = s.orient)
  | committed (hphase : s.seq.phase = .updGyro) (hidle : t.seq.phase = .idle)
      (hstatus : t.status = { s.status with tValid := true, err := 0#3, done := true })
      (hoffsets : t.offsets = s.offsets) (hclock : s.env.clock = t.orient.tLast :: t.env.clock)

/-- What a block step does depends on STATUS, the results, the phase and the clock of the state it starts in. -/
theorem BlockResult.congr (h : BlockResult u t) (hstatus : u.status = s.status) (horient : u.orient = s.orient)
    (hoffsets : u.offsets = s.offsets) (hphase : u.seq.phase = s.seq.phase) (hclock : u.env.clock = s.env.clock) :
    BlockResult s t := by
  have hbusy : u.busy = s.busy := by rw [State.busy, State.busy, hphase]
  cases h with
  | runsOn h1 h2 h3 h4 => exact .runsOn (h1.trans hstatus) (h2.trans horient) (h3.trans hoffsets) (h4.trans hbusy)
  | failed e he hb hidle h1 h2 h3 =>
    exact .failed e he (hbusy ▸ hb) hidle (hstatus ▸ h1) (h2.trans horient) (h3.trans hoffsets)
  | calibrated hp hidle h1 h2 => exact .calibrated (hphase ▸ hp) hidle (hstatus ▸ h1) (h2.trans horient)
  | committed hp hidle h1 h2 h3 =>
    exact .committed (hphase ▸ hp) hidle (hstatus ▸ h1) (h2.trans hoffsets) (hclock ▸ h3)

/-- An attempt is made in the state it finds, the agents' own fields apart. -/
theorem BlockResult.of_sensorRead {k : SensorKind} {a : SensorAnswer} (hread : s.sensorRead k = some (a, u))
    (h : BlockResult u t) : BlockResult s t := by
  obtain ⟨hu, -, hclock, -, -⟩ := State.sensorRead_frame hread
  exact h.congr (by rw [hu]) (by rw [hu]) (by rw [hu]) (by rw [hu]) hclock

theorem BlockFrame.of_sensorRead {k : SensorKind} {a : SensorAnswer} (hread : s.sensorRead k = some (a, u))
    (h : BlockFrame u t) : BlockFrame s t := by
  obtain ⟨hu, -, -, hschedule, hlastRead⟩ := State.sensorRead_frame hread
  exact {
    config := h.config.trans (by rw [hu]), retryMax := h.retryMax.trans (by rw [hu])
    calN := h.calN.trans (by rw [hu]), alpha := h.alpha.trans (by rw [hu]), beta := h.beta.trans (by rw [hu])
    accStatTh := h.accStatTh.trans (by rw [hu]), gzStatTh := h.gzStatTh.trans (by rw [hu])
    cmdRej := h.cmdRej.trans (by rw [hu]), wrRej := h.wrRej.trans (by rw [hu])
    lastOp := h.lastOp.trans (by rw [hu]), schedule := h.schedule.trans hschedule
    lastRead := h.lastRead.trans hlastRead }

theorem exhausted_toErr_ne_zero (k : SensorKind) : k.exhausted.toErr ≠ 0#3 := by cases k <;> decide

theorem failedAttempt_result (k : SensorKind) (hbusy : s.busy = true) :
    BlockFrame s (s.failedAttempt k) ∧ BlockResult s (s.failedAttempt k) := by
  rcases State.failedAttempt_cases (s := s) k with ⟨-, h⟩ | ⟨-, h⟩ <;> rw [h]
  · exact ⟨.of_update,
      .failed _ (exhausted_toErr_ne_zero k) hbusy rfl rfl rfl rfl⟩
  · exact ⟨.of_update, .runsOn rfl rfl rfl rfl⟩

/-- An estimate carries the time it was computed for (R171). -/
theorem estimate_tLast {a g : Vec3} {tNow : Time} {o : Orientation} (h : s.estimate a g tNow = some o) :
    o.tLast = tNow := by
  rw [State.estimate_eq_bind] at h
  obtain ⟨r, -, h⟩ := Option.bind_eq_some_iff.1 h
  obtain ⟨p, -, rfl⟩ := Option.map_eq_some_iff.1 h
  rfl

theorem finishUpdate_result {x y z : Raw} (hphase : s.seq.phase = .updGyro) (h : s.finishUpdate x y z = some t) :
    BlockFrame s t ∧ BlockResult s t := by
  obtain ⟨m, rest, hclock, ⟨o, ho, rfl⟩ | ⟨-, rfl⟩⟩ := State.finishUpdate_cases h
  · refine ⟨.of_update, .committed hphase rfl rfl rfl ?_⟩
    rw [hclock, State.commit_orient, estimate_tLast ho, State.commit_env]
  · have hbusy : s.busy = true := by rw [State.busy_eq_true, hphase]; decide
    exact ⟨.of_update,
      .failed 4#3 (by decide) hbusy rfl rfl rfl rfl⟩

/-- Where the next phase is a running one too the command runs on. -/
theorem busy_eq_of_phase (hs : s.seq.phase ≠ .idle) (ht : t.seq.phase ≠ .idle) : t.busy = s.busy := by
  rw [(State.busy_eq_true s).2 hs, (State.busy_eq_true t).2 ht]

theorem endSample_result {x y z : Raw} (hphase : s.seq.phase = .calAccel) (h : s.endSample x y z = some t) :
    BlockFrame s t ∧ BlockResult s t := by
  have hs : s.seq.phase ≠ .idle := by rw [hphase]; decide
  rcases State.endSample_cases h with ⟨-, rfl⟩ | ⟨-, m, rest, -, rfl⟩
  all_goals
    exact ⟨.of_update,
      .runsOn rfl rfl rfl (busy_eq_of_phase hs Phase.noConfusion)⟩

theorem stepCalDelay_result (hphase : s.seq.phase = .calDelay) (h : s.stepCalDelay = some t) :
    BlockFrame s t ∧ BlockResult s t := by
  have hs : s.seq.phase ≠ .idle := by rw [hphase]; decide
  obtain ⟨m, rest, -, ⟨-, rfl⟩ | ⟨-, rfl⟩⟩ := State.stepCalDelay_cases h
  · exact ⟨.of_update,
      .runsOn rfl rfl rfl (busy_eq_of_phase hs Phase.noConfusion)⟩
  · exact ⟨.of_update, .runsOn rfl rfl rfl rfl⟩

/-- Every enabled block step keeps the frame and has one of the four results. -/
theorem blockAction_result (h : s.blockAction = some t) : BlockFrame s t ∧ BlockResult s t := by
  have hread {k : SensorKind} {a : SensorAnswer} {u : State} (hr : s.sensorRead k = some (a, u)) :
      (BlockFrame u t ∧ BlockResult u t) → BlockFrame s t ∧ BlockResult s t :=
    And.imp (.of_sensorRead hr) (.of_sensorRead hr)
  have hsame {k : SensorKind} {a : SensorAnswer} {u : State} (hr : s.sensorRead k = some (a, u)) :
      u.seq.phase = s.seq.phase := congrArg Sequencer.phase (sensorRead_seq_clock hr).1
  rcases blockAction_cases h with ⟨k, u, hk, hr, rfl⟩ | ⟨hp, x, y, z, u, hr, rfl⟩ | ⟨hp, x, y, z, u, hr, hend⟩ |
    ⟨hp, hdelay⟩ | ⟨hp, rfl⟩ | ⟨hp, x, y, z, u, hr, rfl⟩ | ⟨hp, x, y, z, u, hr, hfinish⟩
  · exact hread hr (failedAttempt_result k (busy_of_reads (k := k) (by rw [hsame hr, hk])))
  · exact hread hr ⟨.of_update, .runsOn rfl rfl rfl
      (busy_eq_of_phase (by rw [hsame hr, hp]; decide) Phase.noConfusion)⟩
  · exact hread hr (endSample_result ((hsame hr).trans hp) hend)
  · exact stepCalDelay_result hp hdelay
  · exact ⟨.of_update, .calibrated hp rfl rfl rfl⟩
  · exact hread hr ⟨.of_update, .runsOn rfl rfl rfl
      (busy_eq_of_phase (by rw [hsame hr, hp]; decide) Phase.noConfusion)⟩
  · exact hread hr (finishUpdate_result ((hsame hr).trans hp) hfinish)

/-- The block's turn, whether or not a step of it is enabled. -/
theorem blockStep_result (s : State) : BlockFrame s s.blockStep ∧ BlockResult s s.blockStep := by
  rcases blockStep_cases s with ⟨-, h⟩ | ⟨t, ht, h⟩ <;> rw [h]
  · exact ⟨.of_update, .runsOn rfl rfl rfl rfl⟩
  · exact blockAction_result ht

/-- Settles O40. -/
theorem blockStepFrame : Obligations.BlockStepFrame := by
  intro s
  have h := (blockStep_result s).1
  exact ⟨h.config, h.retryMax, h.calN, h.alpha, h.beta, h.accStatTh, h.gzStatTh, h.cmdRej, h.wrRej, h.lastOp,
    h.schedule, h.lastRead⟩

/-- Settles O41: acceptance leaves both alone, and of the block's results only a commit, which comes from UPD_GYRO,
does not. -/
theorem calibrateLeavesTheOrientation : Obligations.CalibrateLeavesTheOrientation := by
  refine ⟨fun s t h => ?_, fun s hphase => ?_⟩
  · obtain ⟨horient, -, -, htValid, -⟩ := exec_frame h
    exact ⟨horient, htValid⟩
  · cases (blockStep_result s).2 with
    | runsOn hstatus horient _ _ => exact ⟨horient, by rw [hstatus]⟩
    | failed e he _ _ hstatus horient _ => exact ⟨horient, by rw [hstatus]⟩
    | calibrated _ _ hstatus horient => exact ⟨horient, by rw [hstatus]⟩
    | committed hupd _ _ _ _ => rw [hupd] at hphase; cases hphase

/-- Settles O42: a command that ends with an error has failed, the two completions having the code OK. -/
theorem failedCommandLeavesTheResults : Obligations.FailedCommandLeavesTheResults := by
  intro s hbusy hidle herr
  cases (blockStep_result s).2 with
  | runsOn _ _ _ hsame => rw [hsame, hbusy] at hidle; cases hidle
  | failed e he _ _ hstatus horient hoffsets => exact ⟨horient, hoffsets, by rw [hstatus]⟩
  | calibrated _ _ hstatus _ => exact absurd (by rw [hstatus]) herr
  | committed _ _ hstatus _ _ => exact absurd (by rw [hstatus]) herr

/-! ### Every step -/

/-- A step is hardware reset, a host transaction, or a turn of the block, in terms of what it can change. -/
theorem step_result (h : step s = .next t) :
    (∃ rest, s.env.schedule = .rst :: rest ∧ t = (s.withSchedule rest).hardwareReset) ∨
    (∃ p rest, s.env.schedule = .transact p :: rest ∧ exec (decode p) (s.withSchedule rest) = .next t) ∨
    (t.config = s.config ∧ BlockResult s t) := by
  rcases step_cases s with ⟨-, hs⟩ | ⟨p, rest, hp, hs⟩ | ⟨rest, -, hs⟩ | ⟨rest, hp, hs⟩ <;> rw [hs] at h
  case inr.inl => exact .inr (.inl ⟨p, rest, hp, h⟩)
  all_goals obtain rfl := Host.Outcome.next.inj h
  case inl =>
    obtain ⟨hframe, hresult⟩ := blockStep_result s
    exact .inr (.inr ⟨hframe.config, hresult⟩)
  case inr.inr.inl =>
    obtain ⟨hframe, hresult⟩ := blockStep_result (s.withSchedule rest)
    exact .inr (.inr ⟨hframe.config, hresult.congr rfl rfl rfl rfl rfl⟩)
  case inr.inr.inr => exact .inl ⟨rest, hp, rfl⟩

/-- The STATUS that a block step leaves has the rejection flags of the one it found. -/
theorem BlockResult.rejections (h : BlockResult s t) :
    t.status.cmdRej = s.status.cmdRej ∧ t.status.wrRej = s.status.wrRej := by
  cases h with
  | runsOn hstatus _ _ _ => rw [hstatus]; exact ⟨rfl, rfl⟩
  | failed e _ _ _ hstatus _ _ => rw [hstatus]; exact ⟨rfl, rfl⟩
  | calibrated _ _ hstatus _ => rw [hstatus]; exact ⟨rfl, rfl⟩
  | committed _ _ hstatus _ _ => rw [hstatus]; exact ⟨rfl, rfl⟩

/-- DONE as a block step leaves it: risen at the end of the running command, or as it was (R27, R201). -/
theorem BlockResult.done (h : BlockResult s t) :
    (t.status.done = s.status.done ∧ t.busy = s.busy) ∨
      (s.busy = true ∧ t.busy = false ∧ t.status.done = true) := by
  cases h with
  | runsOn hstatus _ _ hbusy => exact .inl ⟨by rw [hstatus], hbusy⟩
  | failed e _ hbusy hidle hstatus _ _ => exact .inr ⟨hbusy, (t.busy_eq_false).2 hidle, by rw [hstatus]⟩
  | calibrated hphase hidle hstatus _ =>
    exact .inr ⟨(s.busy_eq_true).2 (by rw [hphase]; decide), (t.busy_eq_false).2 hidle, by rw [hstatus]⟩
  | committed hphase hidle hstatus _ _ =>
    exact .inr ⟨(s.busy_eq_true).2 (by rw [hphase]; decide), (t.busy_eq_false).2 hidle, by rw [hstatus]⟩

/-- Settles O24: transactions keep both flags, and the block sets one in either completion. -/
theorem validityFlagsFallOnlyAtReset : Obligations.ValidityFlagsFallOnlyAtReset := by
  intro s t h
  rcases step_result h with ⟨rest, hrst, rfl⟩ | ⟨p, rest, -, hexec⟩ | ⟨-, hblock⟩
  · exact ⟨fun _ => ⟨rest, hrst⟩, fun _ h => (by cases h), fun _ h => (by cases h)⟩
  · obtain ⟨-, -, hcal, ht, -⟩ := exec_frame hexec
    rw [hcal, ht]
    simp +contextual
  · cases hblock with
    | runsOn hstatus _ _ _ => rw [hstatus]; simp +contextual
    | failed e _ _ _ hstatus _ _ => rw [hstatus]; simp +contextual
    | calibrated hphase hidle hstatus _ => rw [hstatus]; simp [hphase, hidle]
    | committed hphase hidle hstatus _ _ => rw [hstatus]; simp [hphase, hidle]

/-- The instruction WR_STATUS comes from a write to the address of STATUS alone (R83, R85). -/
theorem decode_eq_wrStatus {p : Packet} {d : Word} (h : decode p = .wrStatus d) :
    packetWe p = true ∧ packetAddr p = 0x04#8 ∧ packetData p = d := by
  obtain ⟨-, hwe, haddr, hdata⟩ := encodeKeepsSignificantBits p
  rw [h] at hwe haddr hdata
  simp only [encode, writePacket, packetWe_packet, packetAddr_packet, packetData_packet] at hwe haddr hdata
  rw [← haddr] at hdata
  exact ⟨hwe.symm, haddr.symm, (hdata hwe.symm (by decide) (by decide)).symm⟩

/-- Settles O25: of all steps only reset and WR_STATUS clear a rejection flag. -/
theorem rejectionFlagsAreSticky : Obligations.RejectionFlagsAreSticky := by
  intro s t h
  rcases step_result h with ⟨rest, hrst, -⟩ | ⟨p, rest, hp, hexec⟩ | ⟨-, hblock⟩
  · exact ⟨fun _ _ => .inl ⟨rest, hrst⟩, fun _ _ => .inl ⟨rest, hrst⟩⟩
  · cases exec_result hexec with
    | acknowledged d hi ht =>
      obtain ⟨hwe, haddr, rfl⟩ := decode_eq_wrStatus hi
      rw [ht]
      refine ⟨fun hset hclear => .inr ⟨p, rest, hp, hwe, haddr, ?_⟩,
        fun hset hclear => .inr ⟨p, rest, hp, hwe, haddr, ?_⟩⟩
      all_goals simpa [Status.acknowledge, writeOneToClear, hset] using hclear
    | configured d hi hidle ht => rw [ht]; simp +contextual
    | calibrateAccepted hi hidle ht => rw [ht]; simp +contextual [Status.accept]
    | updateAccepted hi hidle ht =>
      rcases State.acceptUpdate_cases (s := s.withSchedule rest) with ⟨-, hu⟩ | ⟨-, hu⟩ <;> rw [ht, hu]
      all_goals simp +contextual [Status.accept]
    | other hrejections =>
      obtain ⟨-, c, w, hstatus⟩ := hrejections
      rw [hstatus]
      simp +contextual
  · obtain ⟨hcmd, hwr⟩ := hblock.rejections
    rw [hcmd, hwr]
    simp +contextual

/-- Settles O26. -/
theorem doneFollowsCompletion : Obligations.DoneFollowsCompletion := by
  intro s t h
  rcases step_result h with ⟨rest, hrst, rfl⟩ | ⟨p, rest, hp, hexec⟩ | ⟨-, hblock⟩
  · exact ⟨fun _ h => (by cases h), fun _ _ => .inl ⟨rest, hrst⟩⟩
  · cases exec_result hexec with
    | acknowledged d hi ht =>
      rw [ht]
      refine ⟨fun hclear hset => ?_, fun hset hclear => .inr (.inl ⟨p, rest, d, hp, hi, ?_⟩)⟩
      · simp [Status.acknowledge, writeOneToClear, hclear] at hset
      · simpa [Status.acknowledge, writeOneToClear, hset] using hclear
    | configured d hi hidle ht => rw [ht]; simp +contextual
    | calibrateAccepted hi hidle ht =>
      exact ⟨fun _ hset => (by rw [ht] at hset; cases hset),
        fun _ _ => .inr (.inr ⟨p, rest, hp, .inl hi, hidle⟩)⟩
    | updateAccepted hi hidle ht =>
      refine ⟨fun _ hset => .inr ⟨p, rest, hp, hi, hidle, ?_⟩, fun _ _ => .inr (.inr ⟨p, rest, hp, .inr hi, hidle⟩)⟩
      rcases State.acceptUpdate_cases (s := s.withSchedule rest) with ⟨-, hu⟩ | ⟨hcal, hu⟩ <;> rw [ht, hu] at hset ⊢
      · cases hset
      · exact ⟨hcal, rfl⟩
    | other hrejections =>
      obtain ⟨-, c, w, hstatus⟩ := hrejections
      rw [hstatus]
      simp +contextual
  · rcases hblock.done with ⟨hdone, -⟩ | ⟨hbusy, hidle, hdone⟩
    · rw [hdone]
      simp +contextual
    · exact ⟨fun _ _ => .inl ⟨hbusy, hidle⟩, fun _ hclear => (by rw [hdone] at hclear; cases hclear)⟩

/-- Settles O10: `irq` needs DONE, and where DONE did not rise it needs a CONFIG write with IRQ_EN. -/
theorem interruptRisesOnlyAtCompletionOrEnable : Obligations.InterruptRisesOnlyAtCompletionOrEnable := by
  intro s t h
  refine ⟨rfl, fun hlow hhigh => ?_⟩
  obtain ⟨hdone, henabled⟩ : t.status.done = true ∧ t.config.irqEn = true := by simpa [State.irq] using hhigh
  by_cases hrise : s.status.done = false
  · rcases (doneFollowsCompletion s t h).1 hrise hdone with ⟨hbusy, hidle⟩ | ⟨p, rest, hp, hi, hidle, hcal, -⟩
    · exact .inl ⟨hbusy, hidle, hdone⟩
    · exact .inr (.inl ⟨p, rest, hp, hi, hidle, hcal⟩)
  · have hwas : s.status.done = true := by simpa using hrise
    have hdisabled : s.config.irqEn = false := by simpa [State.irq, hwas] using hlow
    rcases step_result h with ⟨rest, -, rfl⟩ | ⟨p, rest, hp, hexec⟩ | ⟨hconfig, -⟩
    · cases hdone
    · cases exec_result hexec with
      | configured d hi hidle ht =>
        rw [ht] at henabled
        exact .inr (.inr ⟨p, rest, d, hp, hi, henabled, hidle, hwas⟩)
      | acknowledged d hi ht => rw [ht] at henabled; exact absurd henabled (by simp [hdisabled])
      | calibrateAccepted hi hidle ht => rw [ht] at hdone; cases hdone
      | updateAccepted hi hidle ht =>
        rcases State.acceptUpdate_cases (s := s.withSchedule rest) with ⟨-, hu⟩ | ⟨-, hu⟩ <;> rw [ht, hu] at henabled
        all_goals exact absurd henabled (by simp [hdisabled])
      | other hrejections =>
        obtain ⟨hconfig, -⟩ := hrejections
        rw [hconfig] at henabled
        exact absurd henabled (by simp [hdisabled])
    · rw [hconfig, hdisabled] at henabled
      cases henabled

/-- Settles O27: of all steps only reset and a commit write it. -/
theorem onlyACommitWritesTheOrientation : Obligations.OnlyACommitWritesTheOrientation := by
  intro s t h hne
  rcases step_result h with ⟨rest, hrst, -⟩ | ⟨p, rest, -, hexec⟩ | ⟨-, hblock⟩
  · exact .inl ⟨rest, hrst⟩
  · exact absurd (exec_frame hexec).1 hne
  · cases hblock with
    | runsOn _ horient _ _ => exact absurd horient hne
    | failed e _ _ _ _ horient _ => exact absurd horient hne
    | calibrated _ _ _ horient => exact absurd horient hne
    | committed hphase hidle hstatus _ hclock =>
      exact .inr ⟨hphase, hidle, by rw [hstatus], by rw [hstatus], by rw [hstatus], hclock⟩

/-- Settles O28: of all steps only reset and the finish of CALIBRATE write them. -/
theorem onlyAFinishedCalibrationWritesTheOffsets : Obligations.OnlyAFinishedCalibrationWritesTheOffsets := by
  intro s t h hne
  rcases step_result h with ⟨rest, hrst, -⟩ | ⟨p, rest, -, hexec⟩ | ⟨-, hblock⟩
  · exact .inl ⟨rest, hrst⟩
  · exact absurd (exec_frame hexec).2.1 hne
  · cases hblock with
    | runsOn _ _ hoffsets _ => exact absurd hoffsets hne
    | failed e _ _ _ _ _ hoffsets => exact absurd hoffsets hne
    | committed _ _ _ hoffsets _ => exact absurd hoffsets hne
    | calibrated hphase hidle hstatus _ =>
      exact .inr ⟨hphase, hidle, by rw [hstatus], by rw [hstatus], by rw [hstatus]⟩

/-- Settles O23: behind the gates a busy state lets a transaction respond, reject or acknowledge, and no more. -/
theorem transactionsLeaveARunningCommandAlone : Obligations.TransactionsLeaveARunningCommandAlone := by
  intro s t p rest hbusy hschedule h
  rw [step_of_transact hschedule] at h
  obtain ⟨u, hu, hcases⟩ := exec_cases (decode p) (s.withSchedule rest)
  obtain rfl : u = t := Host.Outcome.next.inj (hu.symm.trans h)
  rcases hcases with rfl | ⟨v, rfl⟩ | rfl | rfl | ⟨d, rfl⟩ | ⟨hidle, -⟩
  case inr.inr.inr.inr.inl =>
    refine ⟨rfl, rfl, rfl, rfl, rfl, rfl, rfl, rfl, rfl, rfl, rfl, fun hdone => ?_, rfl⟩
    exact (by simpa [Status.acknowledge, writeOneToClear] using hdone : s.status.done = true ∧ _).1
  case inr.inr.inr.inr.inr => rw [State.withSchedule_busy, hbusy] at hidle; cases hidle
  all_goals exact ⟨rfl, rfl, rfl, rfl, rfl, rfl, rfl, rfl, rfl, rfl, rfl, id, rfl⟩

/-! ### Attempts (20_memory.md R65, R66) -/

/-- What is on the sensor port: the requests made and the answers to come. -/
def Env.port (e : Env) : List SensorKind × List SensorAnswer × List SensorAnswer :=
  (e.attempts, e.gyroLink, e.accelLink)

/-- R65 for one step from `s` to `t`. -/
def AttemptsAsItsPhaseReads (s t : State) : Prop :=
  (t.env.attempts = s.env.attempts ∧ t.env.gyroLink = s.env.gyroLink ∧ t.env.accelLink = s.env.accelLink) ∨
  (s.seq.phase.reads = some .gyro ∧ t.env.attempts = .gyro :: s.env.attempts ∧
    (∃ r, s.env.gyroLink = r :: t.env.gyroLink) ∧ t.env.accelLink = s.env.accelLink) ∨
  (s.seq.phase.reads = some .accel ∧ t.env.attempts = .accel :: s.env.attempts ∧
    (∃ r, s.env.accelLink = r :: t.env.accelLink) ∧ t.env.gyroLink = s.env.gyroLink)

theorem AttemptsAsItsPhaseReads.of_port_eq (h : t.env.port = s.env.port) : AttemptsAsItsPhaseReads s t := by
  simp only [Env.port, Prod.mk.injEq] at h
  exact .inl h

/-- One attempt of the kind that the phase reads, and nothing more on the port. -/
theorem AttemptsAsItsPhaseReads.of_sensorRead {k : SensorKind} {a : SensorAnswer}
    (hphase : s.seq.phase.reads = some k) (hread : s.sensorRead k = some (a, u)) (h : t.env.port = u.env.port) :
    AttemptsAsItsPhaseReads s t := by
  simp only [Env.port, Prod.mk.injEq] at h
  obtain ⟨hattempts, hgyro, haccel⟩ := h
  cases k
  · obtain ⟨rest, hlink, rfl⟩ := State.sensorRead_gyro_eq_some.1 hread
    exact .inr (.inl ⟨hphase, hattempts, ⟨a, by rw [hgyro, hlink]⟩, haccel⟩)
  · obtain ⟨rest, hlink, rfl⟩ := State.sensorRead_accel_eq_some.1 hread
    exact .inr (.inr ⟨hphase, hattempts, ⟨a, by rw [haccel, hlink]⟩, hgyro⟩)

/-- Outside its attempt a block step leaves the port alone. -/
theorem blockAction_attempts (h : s.blockAction = some t) : AttemptsAsItsPhaseReads s t := by
  rcases blockAction_cases h with ⟨k, u, hk, hr, rfl⟩ | ⟨hp, x, y, z, u, hr, rfl⟩ | ⟨hp, x, y, z, u, hr, hend⟩ |
    ⟨-, hdelay⟩ | ⟨-, rfl⟩ | ⟨hp, x, y, z, u, hr, rfl⟩ | ⟨hp, x, y, z, u, hr, hfinish⟩
  · exact .of_sensorRead hk hr (by rw [State.failedAttempt_env])
  · exact .of_sensorRead (by rw [hp]; rfl) hr rfl
  · refine .of_sensorRead (by rw [hp]; rfl) hr ?_
    rcases State.endSample_cases hend with ⟨-, rfl⟩ | ⟨-, m, rest, -, rfl⟩ <;> rfl
  · obtain ⟨m, rest, -, ⟨-, rfl⟩ | ⟨-, rfl⟩⟩ := State.stepCalDelay_cases hdelay
    all_goals exact .of_port_eq rfl
  · exact .of_port_eq rfl
  · exact .of_sensorRead (by rw [hp]; rfl) hr rfl
  · refine .of_sensorRead (by rw [hp]; rfl) hr ?_
    obtain ⟨m, rest, -, ⟨o, -, rfl⟩ | ⟨-, rfl⟩⟩ := State.finishUpdate_cases hfinish <;> rfl

theorem blockStep_attempts (s : State) : AttemptsAsItsPhaseReads s s.blockStep := by
  rcases blockStep_cases s with ⟨-, h⟩ | ⟨t, ht, h⟩ <;> rw [h]
  · exact .of_port_eq rfl
  · exact blockAction_attempts ht

/-- Settles O29: only the block makes attempts. -/
theorem attemptsOnlyInReadingPhases : Obligations.AttemptsOnlyInReadingPhases := by
  intro s t h
  change AttemptsAsItsPhaseReads s t
  rcases step_cases s with ⟨-, hs⟩ | ⟨p, rest, -, hs⟩ | ⟨rest, -, hs⟩ | ⟨rest, -, hs⟩ <;> rw [hs] at h
  case inr.inl =>
    obtain ⟨-, -, -, -, henv⟩ := exec_frame h
    exact .of_port_eq (by rw [henv]; rfl)
  all_goals obtain rfl := Host.Outcome.next.inj h
  case inl => exact blockStep_attempts s
  case inr.inr.inl => exact blockStep_attempts (s.withSchedule rest)
  case inr.inr.inr => exact .of_port_eq rfl

end Sys2Proof.Machine
end

section
/-! PROOFS. The block steps that take a reading, the steps that wait for one, and a bounded-retry read as a whole
(20_memory.md R65 to R69; 41_calibrate.md R133 to R136, R139, R140; 42_update.md R174). -/

namespace Sys2Proof.Machine

variable {s t : State}

/-! ### One reading -/

/-- An attempt that the link answers with a triple is the success action on it (R133). -/
theorem State.readTriple_of_ok {k : SensorKind} {x y z : Raw} (h : s.sensorRead k = some (.ok x y z, t))
    (onOk : Raw → Raw → Raw → State → Option State) : s.readTriple k onOk = onOk x y z t := by
  simp [State.readTriple, h]

/-- The answers to come to the attempts of a kind (R66). -/
def Env.link (e : Env) : SensorKind → List SensorAnswer
  | .gyro => e.gyroLink
  | .accel => e.accelLink

/-- The agents after `n` attempts of a kind, whose answers to come are then `rest` (R65, R66). -/
def Env.taken (e : Env) (k : SensorKind) (n : Nat) (rest : List SensorAnswer) : Env :=
  match k with
  | .gyro => { e with gyroLink := rest, attempts := List.replicate n .gyro ++ e.attempts }
  | .accel => { e with accelLink := rest, attempts := List.replicate n .accel ++ e.attempts }

theorem Env.taken_zero (e : Env) (k : SensorKind) : e.taken k 0 (e.link k) = e := by cases k <;> rfl

/-- Attempts of one kind follow one another. -/
theorem Env.taken_taken (e : Env) (k : SensorKind) (m n : Nat) (r r' : List SensorAnswer) :
    (e.taken k m r).taken k n r' = e.taken k (n + m) r' := by
  cases k <;> simp [Env.taken, ← List.append_assoc]

@[simp] theorem Env.link_taken (e : Env) (k : SensorKind) (n : Nat) (r : List SensorAnswer) :
    (e.taken k n r).link k = r := by cases k <;> rfl

/-- An attempt takes the first answer of its kind (R66). -/
theorem State.sensorRead_of_link {k : SensorKind} {a : SensorAnswer} {rest : List SensorAnswer}
    (h : s.env.link k = a :: rest) : s.sensorRead k = some (a, { s with env := s.env.taken k 1 rest }) := by
  cases k
  · exact State.sensorRead_gyro_eq_some.2 ⟨rest, h, rfl⟩
  · exact State.sensorRead_accel_eq_some.2 ⟨rest, h, rfl⟩

theorem State.sensorRead_of_link_nil {k : SensorKind} (h : s.env.link k = []) : s.sensorRead k = none := by
  cases k
  · have hlink : s.env.gyroLink = [] := h
    simp [State.sensorRead, hlink]
  · have hlink : s.env.accelLink = [] := h
    simp [State.sensorRead, hlink]

/-- The end of the last sample (R140). -/
theorem State.endSample_of_last {x y z : Raw} (h : s.seq.sampleIdx + 1#16 = s.calN) :
    s.endSample x y z =
      some { s.addAccelSample x y z with seq := { (s.addAccelSample x y z).seq with phase := .calFinish } } :=
  if_pos h

/-- The end of an earlier sample, with the time that it marks, or without one yet (R140). -/
theorem State.endSample_of_more {x y z : Raw} (h : s.seq.sampleIdx + 1#16 ≠ s.calN) :
    s.endSample x y z = (s.addAccelSample x y z).now.map fun (m, u) =>
      { u with seq := { u.seq with tMark := m, phase := .calDelay } } := by
  refine (if_neg (show ¬ (s.addAccelSample x y z).seq.sampleIdx = s.calN from h)).trans ?_
  cases (s.addAccelSample x y z).now <;> rfl

theorem State.now_of_clock {m : Time} {times : List Time} (h : s.env.clock = m :: times) :
    s.now = some (m, { s with env := { s.env with clock := times } }) :=
  State.now_eq_some.2 ⟨times, h, rfl⟩

/-- Settles O33. -/
theorem calGyroStepAddsTheSample : Obligations.CalGyroStepAddsTheSample := by
  intro s x y z rest hphase hlink fs
  have hread := State.readTriple_of_ok (State.sensorRead_gyro_eq_some.2 ⟨rest, hlink, rfl⟩)
  refine State.blockStep_of_blockAction ?_
  simp only [State.blockAction, hphase, State.stepCalGyro, hread]
  rfl

/-- The step of CAL_ACCEL on a triple is the end of a sample. -/
theorem blockAction_calAccel {x y z : Raw} {rest : List SensorAnswer} (hphase : s.seq.phase = .calAccel)
    (hlink : s.env.accelLink = .ok x y z :: rest) :
    s.blockAction = ({ s with env := s.env.taken .accel 1 rest } : State).endSample x y z := by
  have hread := State.readTriple_of_ok (State.sensorRead_of_link (k := .accel) hlink)
  simp only [State.blockAction, hphase, State.stepCalAccel, hread]

/-- Settles O34: the end of the last sample, and of an earlier one. -/
theorem calAccelStepEndsTheSample : Obligations.CalAccelStepEndsTheSample := by
  intro s x y z rest hphase hlink fs asum env
  have haction := blockAction_calAccel hphase hlink
  refine ⟨fun hlast => ?_, fun m times hmore hclock => ?_⟩
  · exact State.blockStep_of_blockAction (haction.trans (State.endSample_of_last hlast))
  · refine State.blockStep_of_blockAction (haction.trans ?_)
    rw [State.endSample_of_more (by exact hmore), State.now_of_clock (by exact hclock)]
    rfl

/-- Settles O37. -/
theorem updAccelStepHoldsTheTriple : Obligations.UpdAccelStepHoldsTheTriple := by
  intro s x y z rest hphase hlink fs off
  have hread := State.readTriple_of_ok (State.sensorRead_accel_eq_some.2 ⟨rest, hlink, rfl⟩)
  refine State.blockStep_of_blockAction ?_
  simp only [State.blockAction, hphase, State.stepUpdAccel, hread]
  rfl

/-- Settles O39: in each of the cases no step is enabled. -/
theorem blockWaitsForItsDraws : Obligations.BlockWaitsForItsDraws := by
  intro s
  have hwait (h : s.blockAction = none) : s.blockStep = s := by rw [State.blockStep, h]; rfl
  have hread {k : SensorKind} (hphase : s.seq.phase.reads = some k) (hlink : s.env.link k = []) :
      s.blockAction = none := by
    obtain ⟨onOk, haction⟩ := State.blockAction_eq_readTriple hphase
    simp [haction, State.readTriple, State.sensorRead_of_link_nil hlink]
  refine ⟨fun hphase => hwait ?_, fun hphase hlink => hwait (hread hphase hlink),
    fun hphase hlink => hwait (hread hphase hlink), fun hphase hclock => hwait ?_,
    fun x y z rest hphase hlink hclock => hwait ?_, fun x y z rest hphase hlink hclock hmore => hwait ?_⟩
  · simp [State.blockAction, hphase]
  · simp [State.blockAction, hphase, State.stepCalDelay, State.now_eq_none.2 hclock]
  · have hok := State.readTriple_of_ok (State.sensorRead_gyro_eq_some.2 ⟨rest, hlink, rfl⟩)
    simp only [State.blockAction, hphase, State.stepUpdGyro, hok, State.finishUpdate]
    rw [State.now_eq_none.2 (by exact hclock)]
  · rw [blockAction_calAccel hphase hlink, State.endSample_of_more (by exact hmore),
      State.now_eq_none.2 (by exact hclock)]
    rfl

/-! ### A run of failed attempts -/

/-- The state after `n` failed attempts that did not reach the ceiling (R134). -/
def State.afterFailures (s : State) (k : SensorKind) (n : Nat) (rest : List SensorAnswer) : State :=
  { s with seq := { s.seq with attempt := s.seq.attempt + BitVec.ofNat 8 n }, env := s.env.taken k n rest }

theorem State.blockSteps_add (m n : Nat) (s : State) : s.blockSteps (m + n) = (s.blockSteps m).blockSteps n := by
  induction m generalizing s with
  | zero => rw [Nat.zero_add]; rfl
  | succ m ih => rw [Nat.succ_add]; exact ih s.blockStep

theorem State.blockSteps_succ (n : Nat) (s : State) : s.blockSteps (n + 1) = (s.blockSteps n).blockStep :=
  State.blockSteps_add n 1 s

/-- Failed attempts below the ceiling are counted one by one, and nothing else happens (R134). -/
theorem State.blockSteps_failures {k : SensorKind} (n : Nat) {rest : List SensorAnswer}
    (hreads : s.seq.phase.reads = some k) (hbelow : s.seq.attempt.toNat + n < s.retryMax.toNat)
    (hlink : s.env.link k = List.replicate n .err ++ rest) : s.blockSteps n = s.afterFailures k n rest := by
  induction n generalizing s with
  | zero =>
    have htaken := s.env.taken_zero k
    rw [hlink] at htaken
    simp only [State.blockSteps, State.afterFailures, BitVec.add_zero]
    rw [show s.env.taken k 0 rest = s.env from htaken]
  | succ n ih =>
    rw [List.replicate_succ, List.cons_append] at hlink
    have hmax := s.retryMax.isLt
    have hattempt : (s.seq.attempt + 1#8).toNat = s.seq.attempt.toNat + 1 := by
      rw [BitVec.toNat_add, BitVec.toNat_ofNat]; omega
    have hnot : ¬ s.seq.attempt + 1#8 = s.retryMax := by
      rw [← BitVec.toNat_inj, hattempt]; omega
    have hstep : s.blockStep = s.afterFailures k 1 (List.replicate n .err ++ rest) := by
      rw [State.blockStep_of_err hreads (State.sensorRead_of_link hlink), State.failedAttempt_eq, if_neg hnot]
      rfl
    have hafter := ih (s := s.blockStep) (by rw [hstep]; exact hreads)
      (by rw [hstep]; change (s.seq.attempt + 1#8).toNat + n < s.retryMax.toNat; omega)
      (by rw [hstep]; exact s.env.link_taken k 1 _)
    have hcount : s.seq.attempt + BitVec.ofNat 8 1 + BitVec.ofNat 8 n = s.seq.attempt + BitVec.ofNat 8 (n + 1) := by
      rw [BitVec.add_assoc, ← BitVec.ofNat_add, Nat.add_comm]
    rw [State.blockSteps, hafter, hstep]
    simp only [State.afterFailures, Env.taken_taken, hcount]

/-- Settles O32 for either kind: the run below the ceiling, then the attempt that reaches it. -/
theorem blockSteps_exhausted {k : SensorKind} {rest : List SensorAnswer} (hreads : s.seq.phase.reads = some k)
    (hattempt : s.seq.attempt = 0#8) (hmax : s.retryMax ≠ 0#8)
    (hlink : s.env.link k = List.replicate s.retryMax.toNat .err ++ rest) :
    (∀ n < s.retryMax.toNat, (s.blockSteps n).seq.phase = s.seq.phase ∧ (s.blockSteps n).status = s.status) ∧
    s.blockSteps s.retryMax.toNat = { s with
      status := { s.status with err := k.exhausted.toErr, done := true }
      seq := { s.seq with phase := .idle, attempt := s.retryMax }
      env := s.env.taken k s.retryMax.toNat rest } := by
  have hrun (n : Nat) (hn : n < s.retryMax.toNat) :
      s.blockSteps n = s.afterFailures k n (List.replicate (s.retryMax.toNat - n) .err ++ rest) := by
    refine State.blockSteps_failures n hreads (by rw [hattempt]; simpa using hn) ?_
    rw [hlink, ← List.append_assoc, ← List.replicate_add, Nat.add_sub_cancel' hn.le]
  obtain ⟨n, hn⟩ : ∃ n, s.retryMax.toNat = n + 1 := by
    refine Nat.exists_eq_succ_of_ne_zero fun h0 => hmax ?_
    exact BitVec.eq_of_toNat_eq h0
  refine ⟨fun m hm => by rw [hrun m hm]; exact ⟨rfl, rfl⟩, ?_⟩
  have hlast : s.seq.attempt + BitVec.ofNat 8 n + 1#8 = s.retryMax := by
    rw [hattempt, BitVec.zero_add, ← BitVec.ofNat_add, ← hn, BitVec.ofNat_toNat, BitVec.setWidth_eq]
  have hone : s.retryMax.toNat - n = 1 := by omega
  rw [hn, State.blockSteps_succ, hrun n (by omega), hone, List.replicate_one, List.singleton_append]
  rw [State.blockStep_of_err (s := s.afterFailures k n _) hreads
    (State.sensorRead_of_link (s.env.link_taken k n _)), State.failedAttempt_eq, if_pos (by exact hlast)]
  simp only [State.afterFailures, Env.taken_taken, hlast, Nat.add_comm 1 n]

/-- Settles O32. -/
theorem exhaustedReadMakesRetryMaxAttempts : Obligations.ExhaustedReadMakesRetryMaxAttempts :=
  ⟨fun _ _ hreads hattempt hmax hlink => blockSteps_exhausted hreads hattempt hmax hlink,
    fun _ _ hreads hattempt hmax hlink => blockSteps_exhausted hreads hattempt hmax hlink⟩

/-- A read that is answered after fewer than RETRY_MAX errors: the failed attempts, then the step that takes the
triple (R133). -/
theorem State.blockSteps_read {k : SensorKind} {n : Nat} {rest : List SensorAnswer}
    (hreads : s.seq.phase.reads = some k) (hattempt : s.seq.attempt = 0#8) (hn : n < s.retryMax.toNat)
    (hlink : s.env.link k = List.replicate n .err ++ rest) :
    s.blockSteps (n + 1) = (s.afterFailures k n rest).blockStep := by
  rw [State.blockSteps_succ, State.blockSteps_failures n hreads (by rw [hattempt]; simpa using hn) hlink]

end Sys2Proof.Machine
end

section
/-! PROOFS. The two commands run step by step to their end (41_calibrate.md R137 to R142; 42_update.md R172 to
R177): the reads as in `State.blockSteps_read`, and for CALIBRATE an induction over the samples. -/

namespace Sys2Proof.Machine

variable {s t : State}

/-! ### UPDATE -/

/-- The accelerometer read of a running UPDATE (R174). -/
theorem blockSteps_updAccel {n : Nat} {x y z : Raw} {rest : List SensorAnswer} (hphase : s.seq.phase = .updAccel)
    (hattempt : s.seq.attempt = 0#8) (hn : n < s.retryMax.toNat)
    (hlink : s.env.accelLink = List.replicate n .err ++ .ok x y z :: rest) :
    s.blockSteps (n + 1) = { s with
      seq := { s.seq with acal := s.calAccel x y z, attempt := 0#8, phase := .updGyro }
      env := s.env.taken .accel (n + 1) rest } := by
  rw [State.blockSteps_read (k := .accel) (by rw [hphase]; rfl) hattempt hn hlink]
  exact updAccelStepHoldsTheTriple (s.afterFailures .accel n _) x y z rest hphase rfl

/-- The gyro read of a running UPDATE, which ends it (R175, R177). -/
theorem blockSteps_updGyro {n : Nat} {x y z : Raw} {rest : List SensorAnswer} {tNow : Time} {times : List Time}
    (hphase : s.seq.phase = .updGyro) (hattempt : s.seq.attempt = 0#8) (hn : n < s.retryMax.toNat)
    (hlink : s.env.gyroLink = List.replicate n .err ++ .ok x y z :: rest) (hclock : s.env.clock = tNow :: times) :
    s.blockSteps (n + 1) = (s.estimate s.seq.acal (s.calGyro x y z) tNow).elim
      (((s.afterFailures .gyro n rest).withGyroAndTimeTaken rest times).complete .numeric)
      ((s.afterFailures .gyro n rest).withGyroAndTimeTaken rest times).commit := by
  rw [State.blockSteps_read (k := .gyro) (by rw [hphase]; rfl) hattempt hn hlink]
  exact State.blockStep_of_updGyro (s := s.afterFailures .gyro n _) hphase rfl hclock

/-- A running UPDATE from its first read on: with both triples answered it ends as the estimate decides, which is
that of the state it started in. -/
theorem blockSteps_update {m n : Nat} {ax ay az gx gy gz : Raw} {tNow : Time} {g a : List SensorAnswer}
    {c : List Time} (hphase : s.seq.phase = .updAccel) (hattempt : s.seq.attempt = 0#8)
    (hm : m < s.retryMax.toNat) (hn : n < s.retryMax.toNat)
    (haccel : s.env.accelLink = List.replicate m .err ++ .ok ax ay az :: a)
    (hgyro : s.env.gyroLink = List.replicate n .err ++ .ok gx gy gz :: g) (hclock : s.env.clock = tNow :: c) :
    ∃ v : State, v.status = s.status ∧ v.orient = s.orient ∧ v.offsets = s.offsets ∧
      v.env = { (s.env.taken .accel (m + 1) a).taken .gyro (n + 1) g with clock := c } ∧
      s.blockSteps (m + 1 + (n + 1)) =
        (s.estimate (s.calAccel ax ay az) (s.calGyro gx gy gz) tNow).elim (v.complete .numeric) v.commit := by
  have hsplit := State.blockSteps_add (m + 1) (n + 1) s
  rw [blockSteps_updAccel hphase hattempt hm haccel] at hsplit
  have hend := blockSteps_updGyro (s := { s with
    seq := { s.seq with acal := s.calAccel ax ay az, attempt := 0#8, phase := .updGyro }
    env := s.env.taken .accel (m + 1) a }) rfl rfl hn hgyro hclock
  refine ⟨_, ?_, ?_, ?_, ?_, hsplit.trans hend⟩
  all_goals rfl

/-- Settles O44: the acceptance, the two reads, and the end that the estimate decides. -/
theorem updateRunsToItsCommit : Obligations.UpdateRunsToItsCommit := by
  intro s m n ax ay az gx gy gz tNow g a c hidle hcal hm hn haccel hgyro hclock
  refine ⟨_, (updateAcceptance s).1 hidle hcal, ?_⟩
  intro t
  obtain ⟨v, hstatus, horient, hoffsets, henv, hrun⟩ :=
    blockSteps_update (s := { s with
      status := { s.status with done := false, err := 0#3, lastOp := 2#2 }
      seq := { s.seq with phase := .updAccel, attempt := 0#8 } }) rfl rfl hm hn haccel hgyro hclock
  have hestimate : t = (s.estimate (s.calAccel ax ay az) (s.calGyro gx gy gz) tNow).elim
      (v.complete .numeric) v.commit := hrun
  have hattempts : v.env.attempts =
      List.replicate (n + 1) .gyro ++ List.replicate (m + 1) .accel ++ s.env.attempts := by
    rw [henv, List.append_assoc]
    rfl
  rw [hestimate]
  cases s.estimate (s.calAccel ax ay az) (s.calGyro gx gy gz) tNow with
  | none =>
    exact ⟨rfl, rfl, congrArg Status.lastOp hstatus, hoffsets, congrArg Env.accelLink henv,
      congrArg Env.gyroLink henv, congrArg Env.clock henv, hattempts, horient, rfl, (congrArg Status.tValid hstatus :)⟩
  | some o =>
    exact ⟨rfl, rfl, congrArg Status.lastOp hstatus, hoffsets, congrArg Env.accelLink henv,
      congrArg Env.gyroLink henv, congrArg Env.clock henv, hattempts, rfl, rfl, rfl⟩

/-! ### CALIBRATE -/

/-- The gyro read of a sample (R139). -/
theorem blockSteps_calGyro {n : Nat} {x y z : Raw} {rest : List SensorAnswer} (hphase : s.seq.phase = .calGyro)
    (hattempt : s.seq.attempt = 0#8) (hn : n < s.retryMax.toNat)
    (hlink : s.env.gyroLink = List.replicate n .err ++ .ok x y z :: rest) :
    s.blockSteps (n + 1) = { s.addGyroSample x y z with env := s.env.taken .gyro (n + 1) rest } := by
  rw [State.blockSteps_read (k := .gyro) (by rw [hphase]; rfl) hattempt hn hlink]
  exact calGyroStepAddsTheSample (s.afterFailures .gyro n _) x y z rest hphase rfl

/-- The accelerometer read of the last sample (R140). -/
theorem blockSteps_calAccel_last {n : Nat} {x y z : Raw} {rest : List SensorAnswer}
    (hphase : s.seq.phase = .calAccel) (hattempt : s.seq.attempt = 0#8) (hn : n < s.retryMax.toNat)
    (hlink : s.env.accelLink = List.replicate n .err ++ .ok x y z :: rest)
    (hlast : s.seq.sampleIdx + 1#16 = s.calN) :
    ∃ k, s.blockSteps (n + 1) = { s.addAccelSample x y z with
      seq := { (s.addAccelSample x y z).seq with attempt := k, phase := .calFinish }
      env := s.env.taken .accel (n + 1) rest } := by
  rw [State.blockSteps_read (k := .accel) (by rw [hphase]; rfl) hattempt hn hlink]
  obtain ⟨hstep, -⟩ := calAccelStepEndsTheSample (s.afterFailures .accel n _) x y z rest hphase rfl
  exact ⟨_, hstep hlast⟩

/-- The accelerometer read of an earlier sample and the delay, met at its first test (R140, R141). -/
theorem blockSteps_calAccel_more {n : Nat} {x y z : Raw} {rest : List SensorAnswer} {m m' : Time}
    {times : List Time} (hphase : s.seq.phase = .calAccel) (hattempt : s.seq.attempt = 0#8)
    (hn : n < s.retryMax.toNat) (hlink : s.env.accelLink = List.replicate n .err ++ .ok x y z :: rest)
    (hmore : s.seq.sampleIdx + 1#16 ≠ s.calN) (hclock : s.env.clock = m :: m' :: times)
    (hdelay : 2000 ≤ (m' - m).toInt) :
    s.blockSteps (n + 1 + 1) = { s.addAccelSample x y z with
      seq := { (s.addAccelSample x y z).seq with tMark := m, attempt := 0#8, phase := .calGyro }
      env := { s.env.taken .accel (n + 1) rest with clock := times } } := by
  rw [State.blockSteps_succ, State.blockSteps_read (k := .accel) (by rw [hphase]; rfl) hattempt hn hlink]
  obtain ⟨-, hstep⟩ := calAccelStepEndsTheSample (s.afterFailures .accel n _) x y z rest hphase rfl
  rw [hstep m (m' :: times) hmore hclock, calDelayStepTestsTheTime _ m' times rfl rfl, if_pos (by exact hdelay)]
  rfl

/-- What a run of samples leaves to the offsets: the sums and the counts of `samples` from `s` to `t`, and nothing
else of what a completed CALIBRATE shows. -/
structure SamplesAdded (s t : State) (samples : List CalSample) : Prop where
  config : t.config = s.config
  retryMax : t.retryMax = s.retryMax
  calN : t.calN = s.calN
  status : t.status = s.status
  orient : t.orient = s.orient
  schedule : t.env.schedule = s.env.schedule
  sums : (t.seq.gsum, t.seq.asum) =
    calibrationSums s.config.gyroFs s.config.accelFs samples s.seq.gsum s.seq.asum
  sampleIdx : t.seq.sampleIdx = s.seq.sampleIdx + BitVec.ofNat 16 samples.length

/-- The samples of two runs, one after the other. -/
theorem SamplesAdded.cons {u : State} {c : CalSample} {samples : List CalSample} (h : SamplesAdded s t [c])
    (h' : SamplesAdded t u samples) : SamplesAdded s u (c :: samples) where
  config := h'.config.trans h.config
  retryMax := h'.retryMax.trans h.retryMax
  calN := h'.calN.trans h.calN
  status := h'.status.trans h.status
  orient := h'.orient.trans h.orient
  schedule := h'.schedule.trans h.schedule
  sums := by
    obtain ⟨hg, ha⟩ := Prod.mk.inj h.sums
    rw [h'.sums, h.config, hg, ha]
    rfl
  sampleIdx := by
    rw [h'.sampleIdx, h.sampleIdx, BitVec.add_assoc, ← BitVec.ofNat_add, List.length_singleton, List.length_cons,
      Nat.add_comm]

/-- The last sample leaves CAL_FINISH ahead (R137, R140). -/
theorem blockSteps_lastSample {x : CalSample} {g a : List SensorAnswer} (hphase : s.seq.phase = .calGyro)
    (hattempt : s.seq.attempt = 0#8) (hx : x.gyroErrs < s.retryMax.toNat ∧ x.accelErrs < s.retryMax.toNat)
    (hgyro : s.env.gyroLink = x.gyroAnswers ++ g) (haccel : s.env.accelLink = x.accelAnswers ++ a)
    (hlast : s.seq.sampleIdx + 1#16 = s.calN) :
    ∃ t, s.blockSteps x.attempts = t ∧ SamplesAdded s t [x] ∧ t.seq.phase = .calFinish ∧
      t.env.gyroLink = g ∧ t.env.accelLink = a ∧ t.env.clock = s.env.clock := by
  rw [CalSample.gyroAnswers, List.append_assoc] at hgyro
  rw [CalSample.accelAnswers, List.append_assoc] at haccel
  obtain ⟨hg, ha⟩ := hx
  rw [CalSample.attempts, State.blockSteps_add, blockSteps_calGyro hphase hattempt hg hgyro]
  obtain ⟨k, hk⟩ := blockSteps_calAccel_last (s := { s.addGyroSample x.gx x.gy x.gz with
    env := s.env.taken .gyro (x.gyroErrs + 1) g }) rfl rfl ha haccel hlast
  exact ⟨_, hk, ⟨rfl, rfl, rfl, rfl, rfl, rfl, rfl, rfl⟩, rfl, rfl, rfl, rfl⟩

/-- An earlier sample and its delay leave the next sample ahead (R137, R140, R141). -/
theorem blockSteps_earlierSample {x : CalSample} {g a : List SensorAnswer} {d : Time × Time} {times : List Time}
    (hphase : s.seq.phase = .calGyro)
    (hattempt : s.seq.attempt = 0#8) (hx : x.gyroErrs < s.retryMax.toNat ∧ x.accelErrs < s.retryMax.toNat)
    (hgyro : s.env.gyroLink = x.gyroAnswers ++ g) (haccel : s.env.accelLink = x.accelAnswers ++ a)
    (hmore : s.seq.sampleIdx + 1#16 ≠ s.calN) (hclock : s.env.clock = d.1 :: d.2 :: times)
    (hdelay : 2000 ≤ (d.2 - d.1).toInt) :
    ∃ t, s.blockSteps (x.attempts + 1) = t ∧ SamplesAdded s t [x] ∧ t.seq.phase = .calGyro ∧
      t.seq.attempt = 0#8 ∧ t.env.gyroLink = g ∧ t.env.accelLink = a ∧ t.env.clock = times := by
  rw [CalSample.gyroAnswers, List.append_assoc] at hgyro
  rw [CalSample.accelAnswers, List.append_assoc] at haccel
  obtain ⟨hg, ha⟩ := hx
  rw [CalSample.attempts, Nat.add_assoc, State.blockSteps_add, blockSteps_calGyro hphase hattempt hg hgyro]
  have hrun := blockSteps_calAccel_more (s := { s.addGyroSample x.gx x.gy x.gz with
    env := s.env.taken .gyro (x.gyroErrs + 1) g }) rfl rfl ha haccel hmore hclock hdelay
  exact ⟨_, hrun, ⟨rfl, rfl, rfl, rfl, rfl, rfl, rfl, rfl⟩, rfl, rfl, rfl, rfl, rfl⟩

/-- The loop of R137 from any of its samples on: all samples that are left, and the delays between them. -/
theorem blockSteps_samples {samples : List CalSample} {delays : List (Time × Time)} {g a : List SensorAnswer}
    {c : List Time} (hphase : s.seq.phase = .calGyro) (hattempt : s.seq.attempt = 0#8)
    (hcount : s.seq.sampleIdx.toNat + samples.length = s.calN.toNat) (hdelays : delays.length + 1 = samples.length)
    (herrs : ∀ x ∈ samples, x.gyroErrs < s.retryMax.toNat ∧ x.accelErrs < s.retryMax.toNat)
    (hover : ∀ d ∈ delays, 2000 ≤ (d.2 - d.1).toInt)
    (hgyro : s.env.gyroLink = samples.flatMap CalSample.gyroAnswers ++ g)
    (haccel : s.env.accelLink = samples.flatMap CalSample.accelAnswers ++ a)
    (hclock : s.env.clock = delays.flatMap (fun d => [d.1, d.2]) ++ c) :
    ∃ t, s.blockSteps ((samples.map CalSample.attempts).sum + delays.length) = t ∧ SamplesAdded s t samples ∧
      t.seq.phase = .calFinish ∧ t.env.gyroLink = g ∧ t.env.accelLink = a ∧ t.env.clock = c := by
  have hcalN := s.calN.isLt
  have hnext : (s.seq.sampleIdx + 1#16).toNat = (s.seq.sampleIdx.toNat + 1) % 2 ^ 16 := by
    rw [BitVec.toNat_add, BitVec.toNat_ofNat]
  induction samples generalizing s delays with
  | nil => cases hdelays
  | cons x samples ih =>
    rw [List.length_cons] at hcount
    rw [List.flatMap_cons, List.append_assoc] at hgyro haccel
    have hx := herrs x List.mem_cons_self
    cases delays with
    | nil =>
      obtain rfl : samples = [] := List.length_eq_zero_iff.1 (Nat.succ.inj hdelays).symm
      have hlast : s.seq.sampleIdx + 1#16 = s.calN := by
        rw [← BitVec.toNat_inj, hnext]
        rw [List.length_nil] at hcount
        omega
      have hrun := blockSteps_lastSample hphase hattempt hx hgyro haccel hlast
      rwa [hclock] at hrun
    | cons d delays =>
      rw [List.length_cons, List.length_cons] at hdelays
      have hmore : s.seq.sampleIdx + 1#16 ≠ s.calN := by
        rw [ne_eq, ← BitVec.toNat_inj, hnext]
        omega
      obtain ⟨u, hu, hadded, hphase', hattempt', hgyro', haccel', hclock'⟩ :=
        blockSteps_earlierSample hphase hattempt hx hgyro haccel hmore hclock (hover d List.mem_cons_self)
      have hidx : u.seq.sampleIdx = s.seq.sampleIdx + 1#16 := hadded.sampleIdx
      obtain ⟨t, ht, hrest, hend⟩ := ih hphase' hattempt' (by rw [hidx, hnext, hadded.calN]; omega) (by omega)
        (by rw [hadded.retryMax]; exact fun y hy => herrs y (List.mem_cons_of_mem x hy))
        (fun e he => hover e (List.mem_cons_of_mem d he)) hgyro' haccel' hclock'
        (by rw [hadded.calN]; exact hcalN)
        (by rw [BitVec.toNat_add, BitVec.toNat_ofNat])
      refine ⟨t, ?_, hadded.cons hrest, hend⟩
      rw [List.map_cons, List.sum_cons, List.length_cons, ← ht, ← hu, ← State.blockSteps_add]
      congr 1
      omega

/-- Settles O43: acceptance, the loop over the samples, and the finish. -/
theorem calibrateComputesTheOffsets : Obligations.CalibrateComputesTheOffsets := by
  intro s samples delays g a c hidle hcount hdelays herrs hover hgyro haccel hclock n sums
  refine ⟨_, (calibrateAcceptance s).1 hidle, ?_⟩
  intro t
  obtain ⟨u, hu, hadded, hphase, hgyro', haccel', hclock'⟩ := blockSteps_samples (s := { s with
      status := { s.status with done := false, err := 0#3, lastOp := 1#2 }
      seq := { s.seq with
        phase := .calGyro, attempt := 0#8, sampleIdx := 0#16
        gsum := ⟨0#32, 0#32, 0#32⟩, asum := ⟨0#32, 0#32, 0#32⟩ } })
    rfl rfl (by rw [hcount]; exact Nat.zero_add _) hdelays herrs hover hgyro haccel hclock
  have ht : t = u.blockStep := by
    rw [← hu]
    exact State.blockSteps_succ _ _
  obtain ⟨hgsum, hasum⟩ := Prod.mk.inj hadded.sums
  rw [ht, calFinishStepWritesTheOffsets u hphase]
  refine ⟨rfl, ?_, ?_, hadded.orient, hgyro', haccel', hclock', hadded.schedule⟩
  · simp only [hgsum, hasum, hadded.calN]
    rfl
  · simp only [hadded.status]

end Sys2Proof.Machine
end

section
/-! PROOFS. The binary32 arithmetic (00_scope.md R11; 20_memory.md R63): the value of a pattern, each operation by
the classes of its operands, and from the one rounding function that each is roundTiesToEven of the exact
result. -/

namespace Sys2Proof.Machine

variable {a b : F32}

/-! ### Patterns (R63) -/

/-- The exponent and the fraction are the magnitude bits, cut at bit 23. -/
theorem fBits_fields (a : F32) :
    (a.extractLsb' 23 8).toNat = fBits a / 2 ^ 23 ∧ (a.extractLsb' 0 23).toNat = fBits a % 2 ^ 23 := by
  simp only [BitVec.extractLsb'_toNat, Nat.shiftRight_eq_div_pow, fBits]
  omega

/-- A magnitude in units of 2^-149, by exponent and fraction. -/
theorem magOfBits_div (n : Nat) :
    (magOfBits n : ℚ) / 2 ^ 149 =
      if n / 2 ^ 23 = 0 then ((n % 2 ^ 23 : Nat) : ℚ) / 2 ^ 149
      else ((2 : ℚ) ^ 23 + (n % 2 ^ 23 : Nat)) * 2 ^ (n / 2 ^ 23) / 2 ^ 150 := by
  rcases Nat.lt_or_ge n (2 ^ 23) with h | h
  · rw [if_pos (Nat.div_eq_of_lt h), Nat.mod_eq_of_lt h, magOfBits, if_pos h]
  · obtain ⟨e, he⟩ : ∃ e, n / 2 ^ 23 = e + 1 :=
      Nat.exists_eq_succ_of_ne_zero (Nat.div_pos h (by omega)).ne'
    rw [he, if_neg (by omega), magOfBits, if_neg (by omega), he, Nat.add_sub_cancel, pow_succ (2 : ℚ) e,
      pow_succ (2 : ℚ) 149]
    generalize n % 2 ^ 23 = f
    push_cast
    field_simp
    norm_num

theorem fVal_cast (a : F32) : (fVal a : ℚ) = (if fSign a then -1 else 1) * (fMag a : ℚ) := by
  unfold fVal
  split <;> simp

/-- Settles O49: sign, exponent and fraction are those of the model's magnitude. -/
theorem valueOfAPattern : Obligations.ValueOfAPattern := by
  intro a _
  obtain ⟨hexponent, hfraction⟩ := fBits_fields a
  have hsign : fSign a = a.getLsbD 31 := BitVec.msb_eq_getLsbD_last a
  rw [ieeeValue, hexponent, hfraction, fVal_cast, mul_div_assoc, fMag, magOfBits_div, hsign]

/-! ### Classes of operands -/

theorem isInf_not_nan (h : isInf a = true) : isNaN a = false := by
  have hbits : fBits a = infBits := beq_iff_eq.1 h
  simp [isNaN, hbits]

theorem isInf_not_finite (h : isInf a = true) : isFinite a = false := by
  have hbits : fBits a = infBits := beq_iff_eq.1 h
  simp [isFinite, hbits]

theorem fMag_ne_zero_of_isInf (h : isInf a = true) : fMag a ≠ 0 := by
  rw [fMag_of_isInf h, magOfBits_inf]
  positivity

theorem fVal_eq_zero_iff (a : F32) : fVal a = 0 ↔ fMag a = 0 := by
  rw [← natAbs_fVal, Int.natAbs_eq_zero]

/-- A pattern that is neither finite nor a NaN is infinite. -/
theorem isFinite_or_isInf (h : isNaN a = false) : isFinite a = true ∨ isInf a = true := by
  rw [isNaN_eq_false_iff] at h
  rw [isFinite_iff, isInf, beq_iff_eq]
  omega

/-! ### The operations of finite operands -/

theorem fadd_of_finite (ha : isFinite a = true) (hb : isFinite b = true) :
    fadd a b = if fVal a + fVal b = 0 then mkF32 (fSign a && fSign b) 0 else ofExact (fVal a + fVal b) := by
  simp [fadd, isFinite_not_nan ha, isFinite_not_nan hb, isFinite_not_inf ha, isFinite_not_inf hb]

theorem fmul_of_finite (ha : isFinite a = true) (hb : isFinite b = true) :
    fmul a b = mkF32 (fSign a != fSign b) (roundMag (fMag a * fMag b) (2 ^ 149)) := by
  simp only [fmul, isFinite_not_nan ha, isFinite_not_nan hb, isFinite_not_inf ha, isFinite_not_inf hb]
  rfl

theorem fdiv_of_finite (ha : isFinite a = true) (hb : isFinite b = true) (h0 : fMag b ≠ 0) :
    fdiv a b = mkF32 (fSign a != fSign b) (roundMag (fMag a * 2 ^ 149) (fMag b)) := by
  simp only [fdiv, isFinite_not_nan ha, isFinite_not_nan hb, isFinite_not_inf ha, isFinite_not_inf hb, h0]
  rfl

/-- The sum of finite operands is the rounded exact sum. -/
theorem fadd_roundsTo (ha : isFinite a = true) (hb : isFinite b = true) :
    RoundsTo ((fVal a : ℚ) + fVal b) (fSign a && fSign b) (fadd a b) := by
  have hcast : (fVal a : ℚ) + fVal b = ((fVal a + fVal b : Int) : ℚ) := (Int.cast_add _ _).symm
  rw [fadd_of_finite ha hb, hcast]
  split
  · rename_i h
    rw [h, Int.cast_zero]
    exact mkF32_zero_roundsTo _
  · rename_i h
    exact (ofExact_roundsTo _).of_ne_zero (Int.cast_ne_zero.2 h)

/-- The sign of a product or a quotient is negative where the signs of its operands differ. -/
theorem signed_eq (s s' : Bool) (v : ℚ) :
    (if (s != s') = true then -v else v) = (if s then -1 else 1) * (if s' then -1 else 1) * v := by
  cases s <;> cases s' <;> simp

/-- The product of finite operands is the rounded exact product. -/
theorem fmul_roundsTo (ha : isFinite a = true) (hb : isFinite b = true) :
    RoundsTo ((fVal a : ℚ) * fVal b / 2 ^ 149) (fSign a != fSign b) (fmul a b) := by
  have hvalue : (fVal a : ℚ) * fVal b / 2 ^ 149 = if (fSign a != fSign b) = true
      then -(((fMag a * fMag b : Nat) : ℚ) / (2 ^ 149 : Nat)) else ((fMag a * fMag b : Nat) : ℚ) / (2 ^ 149 : Nat) := by
    rw [signed_eq, fVal_cast, fVal_cast]
    push_cast
    ring
  rw [fmul_of_finite ha hb, hvalue]
  exact roundMag_roundsTo _ _ _ (Nat.two_pow_pos 149)

/-- The quotient of finite operands, the divisor not 0, is the rounded exact quotient. -/
theorem fdiv_roundsTo (ha : isFinite a = true) (hb : isFinite b = true) (h0 : fMag b ≠ 0) :
    RoundsTo ((fVal a : ℚ) * 2 ^ 149 / fVal b) (fSign a != fSign b) (fdiv a b) := by
  have hinv (s : Bool) (v : ℚ) : ((if s then -1 else 1) * v)⁻¹ = (if s then -1 else 1) * v⁻¹ := by
    cases s <;> simp
  have hvalue : (fVal a : ℚ) * 2 ^ 149 / fVal b = if (fSign a != fSign b) = true
      then -(((fMag a * 2 ^ 149 : Nat) : ℚ) / fMag b) else ((fMag a * 2 ^ 149 : Nat) : ℚ) / fMag b := by
    rw [signed_eq, fVal_cast, fVal_cast, div_eq_mul_inv, hinv, div_eq_mul_inv]
    push_cast
    ring
  rw [fdiv_of_finite ha hb h0, hvalue]
  exact roundMag_roundsTo _ _ _ (Nat.pos_of_ne_zero h0)

/-! ### The operations of infinite operands and NaNs -/

/-- Settles O50. -/
theorem sumIsRoundedToNearestEven : Obligations.SumIsRoundedToNearestEven := by
  intro a b
  refine ⟨fadd_roundsTo, fun ha hb => ?_, fun ha hb hs => ?_, fun ha hb hs => ?_, fun ha => ?_⟩
  · simp [fadd, ha, isInf_not_nan ha, isFinite_not_nan hb, isFinite_not_inf hb]
  · simp [fadd, ha, hb, isInf_not_nan ha, isInf_not_nan hb, hs]
  · simp [fadd, ha, hb, isInf_not_nan ha, isInf_not_nan hb, hs, isNaN_nanOf]
  · simp [fadd, ha, isNaN_nanOf]

theorem fSign_mkF32_inf (neg : Bool) : fSign (mkF32 neg infBits) = neg := fSign_mkF32 neg infBits_lt

/-- Settles O51. -/
theorem productIsRoundedToNearestEven : Obligations.ProductIsRoundedToNearestEven := by
  intro a b
  refine ⟨fmul_roundsTo, fun ha hb h0 => ?_, fun ha h0 => ?_, fun ha => ?_⟩
  · have hself := fMag_ne_zero_of_isInf ha
    have hsymm : (fSign b != fSign a) = (fSign a != fSign b) := Bool.xor_comm ..
    have hright : fmul a b = mkF32 (fSign a != fSign b) infBits := by
      simp [fmul, ha, isInf_not_nan ha, hb, h0]
    have hleft : fmul b a = mkF32 (fSign a != fSign b) infBits := by
      simp only [fmul, ha, isInf_not_nan ha, hb, h0, hself, hsymm]
      simp
    rw [hright, hleft, isInf_mkF32, fSign_mkF32_inf]
    exact ⟨rfl, rfl, rfl, rfl⟩
  · have hb := isFinite_of_fMag h0
    simp [fmul, ha, isInf_not_nan ha, isFinite_not_nan hb, isFinite_not_inf hb, h0, isNaN_nanOf]
  · simp [fmul, ha, isNaN_nanOf]

/-- Settles O52. -/
theorem quotientIsRoundedToNearestEven : Obligations.QuotientIsRoundedToNearestEven := by
  intro a b
  refine ⟨fun ha hb h0 => fdiv_roundsTo ha hb (mt (fVal_eq_zero_iff b).2 h0), fun ha ha0 hb0 => ?_,
    fun ha hb => ?_, fun ha hb => ?_, fun ha0 hb0 => ?_, fun ha hb => ?_, fun ha => ?_⟩
  · have hb := isFinite_of_fMag hb0
    have ha0' : fMag a ≠ 0 := mt (fVal_eq_zero_iff a).2 ha0
    simp [fdiv, isFinite_not_nan ha, isFinite_not_nan hb, isFinite_not_inf ha, isFinite_not_inf hb, hb0, ha0',
      isInf_mkF32, fSign_mkF32_inf]
  · simp [fdiv, ha, isInf_not_nan ha, isFinite_not_nan hb, isFinite_not_inf hb, isInf_mkF32, fSign_mkF32_inf]
  · simp [fdiv, hb, isInf_not_nan hb, isFinite_not_nan ha, isFinite_not_inf ha, fBits_mkF32, fSign_mkF32]
  · have ha := isFinite_of_fMag ha0
    have hb := isFinite_of_fMag hb0
    simp [fdiv, isFinite_not_nan ha, isFinite_not_nan hb, isFinite_not_inf ha, isFinite_not_inf hb, ha0, hb0,
      isNaN_nanOf]
  · simp [fdiv, ha, hb, isInf_not_nan ha, isInf_not_nan hb, isNaN_nanOf]
  · simp [fdiv, ha, isNaN_nanOf]

end Sys2Proof.Machine
end

section
/-! PROOFS. Rounding of a real value that is known only to lie between two neighbouring fractions, and from it
`fsqrt` (00_scope.md R11). -/

namespace Sys2Proof.Machine

/-! ### Nearest among all patterns -/

/-- A real value with a sign. -/
noncomputable def signed (neg : Bool) (v : ℝ) : ℝ := if neg then -v else v

theorem fVal_mkF32_real (neg : Bool) {n : Nat} (h : n < 2 ^ 31) :
    (fVal (mkF32 neg n) : ℝ) = signed neg (magOfBits n) := by
  rw [fVal_mkF32 neg h]
  cases neg <;> simp [signed]

theorem abs_signed_sub_signed (neg : Bool) (u v : ℝ) : |signed neg u - signed neg v| = |u - v| := by
  cases neg
  · rfl
  · simp only [signed, if_true]
    rw [neg_sub_neg, abs_sub_comm]

/-- Magnitudes are no further apart than values. -/
theorem abs_fMag_sub_le (w : F32) (neg : Bool) {v : ℝ} (hv : 0 ≤ v) :
    |(fMag w : ℝ) - v| ≤ |(fVal w : ℝ) - signed neg v| := by
  have hw : |(fVal w : ℝ)| = fMag w := by
    rw [← natAbs_fVal w, Nat.cast_natAbs, Int.cast_abs]
  have hs : |signed neg v| = v := by cases neg <;> simp [signed, abs_of_nonneg hv]
  have h := abs_abs_sub_abs_le (fVal w : ℝ) (signed neg v)
  rwa [hw, hs] at h

theorem magOfBits_le_real {m n : Nat} (h : m ≤ n) : (magOfBits m : ℝ) ≤ magOfBits n :=
  Nat.cast_le.2 (magOfBits_strictMono.monotone h)

/-- A value between two neighbouring magnitudes has the nearer of them as a nearest one; either, half way. -/
theorem nearest_of_neighbours {m n : Nat} {v : ℝ} (hlo : (magOfBits m : ℝ) ≤ v) (hhi : v ≤ magOfBits (m + 1))
    (hn : (n = m ∧ 2 * v ≤ magOfBits m + magOfBits (m + 1)) ∨
      (n = m + 1 ∧ (magOfBits m : ℝ) + magOfBits (m + 1) ≤ 2 * v)) (k : Nat) :
    |(magOfBits n : ℝ) - v| ≤ |(magOfBits k : ℝ) - v| := by
  rcases Nat.lt_or_ge m k with hk | hk
  · have hup := magOfBits_le_real (Nat.succ_le_of_lt hk)
    rw [abs_of_nonneg (by linarith : 0 ≤ (magOfBits k : ℝ) - v)]
    rcases hn with ⟨rfl, hhalf⟩ | ⟨rfl, hhalf⟩
    · rw [abs_of_nonpos (by linarith)]; linarith
    · rw [abs_of_nonneg (by linarith)]; linarith
  · have hdown := magOfBits_le_real hk
    rw [abs_of_nonpos (by linarith : (magOfBits k : ℝ) - v ≤ 0)]
    rcases hn with ⟨rfl, hhalf⟩ | ⟨rfl, hhalf⟩
    · rw [abs_of_nonpos (by linarith)]; linarith
    · rw [abs_of_nonneg (by linarith)]; linarith

/-- `roundMag` between its two neighbours, in integers: it takes the nearer one, or either of them half way. -/
theorem roundMag_neighbours_nat (p : Nat) {q : Nat} (hq : 0 < q) :
    ∃ m n : Nat, magOfBits m * q ≤ p ∧ p < magOfBits (m + 1) * q ∧ roundMag p q = min n infBits ∧
      ((n = m ∧ 2 * p ≤ (magOfBits m + magOfBits (m + 1)) * q) ∨
        (n = m + 1 ∧ (magOfBits m + magOfBits (m + 1)) * q ≤ 2 * p)) := by
  obtain ⟨m, n, hm, hm1, hround, hcase⟩ := roundMag_neighbours p q hq
  have hq' : (0 : ℚ) < q := Nat.cast_pos.2 hq
  have hpq : 2 * (p / q : ℚ) * q = 2 * p := by field_simp
  refine ⟨m, n, ?_, ?_, hround, hcase.imp (And.imp_right fun hnear => ?_) (And.imp_right fun hnear => ?_)⟩
  · exact_mod_cast (le_div_iff₀ hq').1 hm
  · exact_mod_cast (div_lt_iff₀ hq').1 hm1
  · have hle : 2 * (p / q : ℚ) ≤ magOfBits m + magOfBits (m + 1) := by
      rcases hnear with h | ⟨h, -⟩ <;> linarith
    exact_mod_cast hpq ▸ mul_le_mul_of_nonneg_right hle hq'.le
  · have hle : (magOfBits m + magOfBits (m + 1) : ℚ) ≤ 2 * (p / q) := by
      rcases hnear with h | ⟨h, -⟩ <;> linarith
    exact_mod_cast hpq ▸ mul_le_mul_of_nonneg_right hle hq'.le

/-- The rounded value of a fraction is a nearest magnitude of it. -/
theorem roundMag_nearest {p q : Nat} (hq : 0 < q) (hfin : roundMag p q < infBits) (j : Nat) :
    |(magOfBits (roundMag p q) : ℝ) - p / q| ≤ |(magOfBits j : ℝ) - p / q| := by
  obtain ⟨m, n, hm, hm1, hround, hcase⟩ := roundMag_neighbours_nat p hq
  have hn : roundMag p q = n := by omega
  have hq' : (0 : ℝ) < q := Nat.cast_pos.2 hq
  rw [hn]
  refine nearest_of_neighbours (m := m) ((le_div_iff₀ hq').2 (by exact_mod_cast hm))
    ((div_le_iff₀ hq').2 (by exact_mod_cast hm1.le)) ?_ j
  rw [← mul_div_assoc, le_div_iff₀ hq', div_le_iff₀ hq']
  exact_mod_cast hcase

/-! ### A cell between neighbouring fractions -/

/-- The middle of the cell from `k / d` to `(k + 1) / d` rounds to a nearest magnitude of every value of the cell,
where no value half way between two neighbours lies inside it. -/
theorem roundMag_cell {k d : Nat} (hd : 0 < d)
    (heven : ∀ m, magOfBits m * d ≤ k → k < magOfBits (m + 1) * d → 2 ∣ (magOfBits m + magOfBits (m + 1)) * d)
    {v : ℝ} (hlo : k ≤ v * d) (hhi : v * d ≤ k + 1) (hfin : roundMag (2 * k + 1) (2 * d) < infBits) (j : Nat) :
    |(magOfBits (roundMag (2 * k + 1) (2 * d)) : ℝ) - v| ≤ |(magOfBits j : ℝ) - v| := by
  obtain ⟨m, n, hlow, hlow1, hround, hcase⟩ := roundMag_neighbours_nat (2 * k + 1) (q := 2 * d) (by omega)
  have hn : roundMag (2 * k + 1) (2 * d) = n := by omega
  rw [Nat.mul_left_comm] at hlow hlow1 hcase
  have hm : magOfBits m * d ≤ k := by omega
  have hm1 : k + 1 ≤ magOfBits (m + 1) * d := by omega
  have hsum := heven m hm hm1
  have hd' : (0 : ℝ) < d := Nat.cast_pos.2 hd
  rw [hn]
  refine nearest_of_neighbours (m := m) ?_ ?_ ?_ j
  · exact le_of_mul_le_mul_right (le_trans (by exact_mod_cast hm) hlo) hd'
  · exact le_of_mul_le_mul_right (hhi.trans (by exact_mod_cast hm1)) hd'
  · refine hcase.imp (And.imp_right fun hside => ?_) (And.imp_right fun hside => ?_)
    · have hup : 2 * (k + 1) ≤ (magOfBits m + magOfBits (m + 1)) * d := by omega
      have hreal : (2 * (k + 1) : ℝ) ≤ (magOfBits m + magOfBits (m + 1)) * d := by exact_mod_cast hup
      exact le_of_mul_le_mul_right (by linarith) hd'
    · have hdown : (magOfBits m + magOfBits (m + 1)) * d ≤ 2 * k := by omega
      have hreal : ((magOfBits m + magOfBits (m + 1)) * d : ℝ) ≤ 2 * k := by exact_mod_cast hdown
      exact le_of_mul_le_mul_right (by linarith) hd'

/-! ### The square root -/

/-- Above 2^24 units a magnitude is even: its last place is at least 2. -/
theorem two_dvd_magOfBits {n : Nat} (h : 2 ^ 24 ≤ magOfBits n) : 2 ∣ magOfBits n := by
  obtain ⟨e, k, rfl, hk, hek⟩ := exists_significand n
  rw [magOfBits_eq e k hk.le hek] at h ⊢
  cases e with
  | zero => rw [pow_zero, Nat.mul_one] at h; omega
  | succ e => exact Dvd.intro_left (k * 2 ^ e) (by rw [pow_succ]; ring)

/-- A significand of at most 24 bits below 2^277 units is the magnitude of a finite pattern. -/
theorem exists_finite_magOfBits_eq {e k : Nat} (hk : k ≤ 2 ^ 24) (he : e < 253) :
    ∃ n < infBits, magOfBits n = k * 2 ^ e := by
  obtain ⟨n, hn⟩ := exists_magOfBits_eq e k hk
  refine ⟨n, ?_, hn⟩
  rw [← magOfBits_strictMono.lt_iff_lt, hn, magOfBits_inf]
  calc k * 2 ^ e ≤ 2 ^ 24 * 2 ^ e := Nat.mul_le_mul_right _ hk
    _ = 2 ^ (24 + e) := (pow_add ..).symm
    _ < 2 ^ 277 := pow_lt_pow_right₀ one_lt_two (by omega)

theorem exists_magOfBits_eq_two_pow {e : Nat} (he : e < 253) : ∃ n < infBits, magOfBits n = 2 ^ e := by
  simpa using exists_finite_magOfBits_eq (k := 1) (by omega) he

/-- A fraction of at most 2^e units rounds to a finite pattern. -/
theorem roundMag_lt_infBits {p q e : Nat} (hq : 0 < q) (he : e < 253) (h : p ≤ q * 2 ^ e) :
    roundMag p q < infBits := by
  obtain ⟨n, hn, hmag⟩ := exists_magOfBits_eq_two_pow he
  exact lt_of_le_of_lt (roundMag_le_of_le hq (hmag ▸ h)) hn

/-- The root of a positive magnitude is at least 2^74 units and less than 2^214. -/
theorem isqrt_magnitude {m : Nat} (hpos : 0 < m) (hm : m < 2 ^ 277) :
    isqrt (m * 2 ^ 149) * isqrt (m * 2 ^ 149) ≤ m * 2 ^ 149 ∧
    m * 2 ^ 149 < (isqrt (m * 2 ^ 149) + 1) * (isqrt (m * 2 ^ 149) + 1) ∧
    2 ^ 74 ≤ isqrt (m * 2 ^ 149) ∧ isqrt (m * 2 ^ 149) < 2 ^ 214 := by
  have hx : m * 2 ^ 149 < 2 ^ (214 * 2) := by
    have hexp : (2 : Nat) ^ (277 + 149) < 2 ^ (214 * 2) := pow_lt_pow_right₀ one_lt_two (by omega)
    rw [pow_add] at hexp
    refine lt_trans ?_ hexp
    gcongr
  obtain ⟨hle, hlt⟩ := isqrt_spec hx
  refine ⟨hle, hlt, ?_, ?_⟩
  · by_contra h
    have hsucc : isqrt (m * 2 ^ 149) + 1 ≤ 2 ^ 74 := by omega
    have hsquare := Nat.mul_le_mul hsucc hsucc
    omega
  · rw [pow_mul, pow_two] at hx
    exact Nat.mul_self_lt_mul_self_iff.1 (hle.trans_lt hx)

/-- The bits of the square root are nearest to it: an exact root is rounded as it is, any other lies in the cell
above the integer root. -/
theorem sqrtMag_nearest {m : Nat} (hpos : 0 < m) (hm : m < 2 ^ 277) :
    sqrtMag m < infBits ∧
    ∀ j, |(magOfBits (sqrtMag m) : ℝ) - Real.sqrt (m * 2 ^ 149)| ≤ |(magOfBits j : ℝ) - Real.sqrt (m * 2 ^ 149)| := by
  obtain ⟨hle, hlt, hlow, hhigh⟩ := isqrt_magnitude hpos hm
  have hcast : ((m * 2 ^ 149 : Nat) : ℝ) = m * 2 ^ 149 := by push_cast; ring
  rw [← hcast]
  have hbits : sqrtMag m = roundMag (2 * isqrt (m * 2 ^ 149) +
      if isqrt (m * 2 ^ 149) * isqrt (m * 2 ^ 149) = m * 2 ^ 149 then 0 else 1) 2 := rfl
  rw [hbits]
  generalize m * 2 ^ 149 = x at *
  generalize isqrt x = n at *
  have hfin (δ : Nat) (hδ : δ ≤ 1) : roundMag (2 * n + δ) 2 < infBits :=
    roundMag_lt_infBits (e := 214) (by omega) (by omega) (by omega)
  split_ifs with hexact
  · have hroot : Real.sqrt (x : ℝ) = ((2 * n + 0 : Nat) : ℝ) / (2 : Nat) := by
      rw [← hexact]
      push_cast
      rw [Real.sqrt_mul_self (Nat.cast_nonneg n)]
      ring
    rw [hroot]
    exact ⟨hfin 0 (by omega), roundMag_nearest (by omega) (hfin 0 (by omega))⟩
  · refine ⟨hfin 1 le_rfl, roundMag_cell (d := 1) (by omega) (fun i hi hi1 => ?_) ?_ ?_ (hfin 1 le_rfl)⟩
    · obtain ⟨t, -, ht⟩ := exists_magOfBits_eq_two_pow (e := 74) (by omega)
      have hti : t ≤ i := by
        have hlt' : magOfBits t < magOfBits (i + 1) := by rw [ht]; omega
        exact Nat.lt_succ_iff.1 (magOfBits_strictMono.lt_iff_lt.1 hlt')
      have hmag := magOfBits_strictMono.monotone hti
      have hmag1 := magOfBits_strictMono.monotone (Nat.le_succ i)
      rw [Nat.mul_one]
      exact dvd_add (two_dvd_magOfBits (by omega)) (two_dvd_magOfBits (by omega))
    · rw [Nat.cast_one, mul_one]
      refine Real.le_sqrt_of_sq_le ?_
      rw [pow_two]
      exact_mod_cast hle
    · rw [Nat.cast_one, mul_one]
      refine (Real.sqrt_le_left (by positivity)).2 ?_
      rw [pow_two]
      exact_mod_cast hlt.le

/-- Settles O53: a zero is its own root; the root of any other value is nearest by its magnitude. -/
theorem squareRootIsNearest : Obligations.SquareRootIsNearest := by
  intro a ha hnonneg exact
  have hnan := isFinite_not_nan ha
  by_cases h0 : fMag a = 0
  · have hroot : fsqrt a = a := by simp [fsqrt, hnan, h0]
    have hexact : exact = 0 := by simp [exact, h0]
    rw [hroot, hexact, (fVal_eq_zero_iff a).2 h0]
    exact ⟨ha, rfl, fun w _ => by simp⟩
  · have hsign : fSign a = false := by
      by_contra hneg
      rw [fVal, if_pos (by simpa using hneg)] at hnonneg
      omega
    have hroot : fsqrt a = mkF32 false (sqrtMag (fMag a)) := by
      simp [fsqrt, hnan, h0, hsign, isFinite_not_inf ha]
    have hmag : fMag a < 2 ^ 277 := by
      rw [← magOfBits_inf]
      exact magOfBits_strictMono ((isFinite_iff a).1 ha)
    obtain ⟨hfin, hnear⟩ := sqrtMag_nearest (Nat.pos_of_ne_zero h0) hmag
    have h31 := hfin.trans infBits_lt
    rw [hroot, isFinite_iff, fBits_mkF32 _ h31, fSign_mkF32 _ h31, hsign]
    refine ⟨hfin, rfl, fun w _ => ?_⟩
    have hexact : exact = signed false exact := rfl
    rw [fVal_mkF32_real _ h31, hexact, abs_signed_sub_signed]
    exact (hnear (fBits w)).trans (abs_fMag_sub_le w false (Real.sqrt_nonneg _))

end Sys2Proof.Machine
end

section
/-! PROOFS. Magnitudes under the operations (00_scope.md R11 to R13): the conversions of raw readings, the wrapped
angle and the stationary test (41_calibrate.md R130, R131; 42_update.md R161, R168). -/

namespace Sys2Proof.Machine

variable {a b : F32}

/-! ### Bounded values -/

/-- A finite value of at most `M` units of 2^-149 in magnitude. -/
def Bounded (a : F32) (M : Nat) : Prop := isFinite a = true ∧ fMag a ≤ M

/-- A magnitude that some finite pattern has. -/
def Representable (M : Nat) : Prop := ∃ n < infBits, magOfBits n = M

theorem Representable.of_le {e k : Nat} (hk : k ≤ 2 ^ 24) (he : e < 253) : Representable (k * 2 ^ e) :=
  exists_finite_magOfBits_eq hk he

theorem atMost_iff (a : F32) (B : Nat) : atMost a B = true ↔ Bounded a (B * 2 ^ 149) := by
  simp [atMost, Bounded]

theorem Vec3.atMost_iff (v : Vec3) (B : Nat) :
    v.atMost B = true ↔ Bounded v.x (B * 2 ^ 149) ∧ Bounded v.y (B * 2 ^ 149) ∧ Bounded v.z (B * 2 ^ 149) := by
  simp only [Vec3.atMost, Bool.and_eq_true, Machine.atMost_iff, and_assoc]

theorem Bounded.mono {M N : Nat} (h : Bounded a M) (hMN : M ≤ N) : Bounded a N := ⟨h.1, h.2.trans hMN⟩

/-- A sum is bounded by every representable bound of its exact value. -/
theorem Bounded.fadd {M N K : Nat} (ha : Bounded a M) (hb : Bounded b N) (h : M + N ≤ K) (hK : Representable K) :
    Bounded (fadd a b) K := by
  obtain ⟨n, hn, rfl⟩ := hK
  refine fadd_bound ha.1 hb.1 hn ((Int.natAbs_add_le ..).trans ?_)
  rw [natAbs_fVal, natAbs_fVal]
  exact (Nat.add_le_add ha.2 hb.2).trans h

/-- A product is bounded by every representable bound of its exact value. -/
theorem Bounded.fmul {M N K : Nat} (ha : Bounded a M) (hb : Bounded b N) (h : M * N ≤ 2 ^ 149 * K)
    (hK : Representable K) : Bounded (fmul a b) K := by
  obtain ⟨n, hn, rfl⟩ := hK
  exact fmul_bound ha.1 hb.1 hn ((Nat.mul_le_mul ha.2 hb.2).trans h)

/-- A quotient is bounded by every representable bound of its exact value. -/
theorem Bounded.fdiv {M D K : Nat} (ha : Bounded a M) (hb : isFinite b = true) (hpos : 0 < D) (hD : D ≤ fMag b)
    (h : M * 2 ^ 149 ≤ D * K) (hK : Representable K) : Bounded (fdiv a b) K := by
  obtain ⟨n, hn, rfl⟩ := hK
  refine fdiv_bound ha.1 hb (by omega) hn ?_
  calc fMag a * 2 ^ 149 ≤ M * 2 ^ 149 := Nat.mul_le_mul_right _ ha.2
    _ ≤ D * magOfBits n := h
    _ ≤ fMag b * magOfBits n := Nat.mul_le_mul_right _ hD

theorem fBits_fneg (a : F32) : fBits (fneg a) = fBits a := by
  rw [fBits, fBits, fneg, BitVec.toNat_xor, Nat.xor_mod_two_pow]
  exact Nat.xor_zero _

theorem fSign_fneg (a : F32) : fSign (fneg a) = !fSign a := by
  simp [fneg, fSign, BitVec.msb_xor, show (0x80000000#32).msb = true by decide]

theorem Bounded.fneg {M : Nat} (h : Bounded a M) : Bounded (fneg a) M := by
  rw [Bounded, isFinite_iff, fMag, fBits_fneg, ← isFinite_iff]
  exact h

theorem Bounded.fsub {M N K : Nat} (ha : Bounded a M) (hb : Bounded b N) (h : M + N ≤ K) (hK : Representable K) :
    Bounded (fsub a b) K := ha.fadd hb.fneg h hK

/-! ### Conversions (R130, R131) -/

/-- A finite magnitude is below the overflow threshold (R11). -/
theorem fMag_lt_overflowThreshold (h : isFinite a = true) : (fMag a : ℚ) < overflowThreshold := by
  have hmid := overflow_midpoint
  have hle : (fMag a : ℚ) ≤ magOfBits (infBits - 1) := magOfBits_le_cast.2 (by rw [isFinite_iff] at h; omega)
  have hlt : (magOfBits (infBits - 1) : ℚ) < magOfBits infBits := magOfBits_lt_cast.2 (by decide)
  linarith

/-- An exact value that is representable is not rounded. -/
theorem RoundsTo.eq_of_finite {exact : ℚ} {z : Bool} {r w : F32} (h : RoundsTo exact z r)
    (hw : isFinite w = true) (heq : (fVal w : ℚ) = exact) : isFinite r = true ∧ (fVal r : ℚ) = exact := by
  obtain ⟨-, hsmall, -⟩ := h
  have habs : |exact| = fMag w := by rw [← heq, ← natAbs_fVal, Nat.cast_natAbs, Int.cast_abs]
  obtain ⟨hfin, hnear⟩ := hsmall (habs ▸ fMag_lt_overflowThreshold hw)
  obtain ⟨hle, -⟩ := hnear w hw
  rw [heq, sub_self, abs_zero] at hle
  exact ⟨hfin, sub_eq_zero.1 (abs_nonpos_iff.1 hle)⟩

theorem Bounded.ofExact {v : Int} {K : Nat} (h : v.natAbs ≤ K) (hK : Representable K) : Bounded (ofExact v) K := by
  obtain ⟨n, hn, rfl⟩ := hK
  exact rounded_finite (by omega) hn (by simpa using h)

theorem i2f_roundsTo (n : Int) : RoundsTo ((n : ℚ) * 2 ^ 149) false (i2f n) := by
  have h := ofExact_roundsTo (n * 2 ^ 149)
  push_cast at h
  exact h

/-- Integers of at most 24 bits are converted exactly. -/
theorem fVal_i2f {n : Int} (h : n.natAbs ≤ 2 ^ 24) : isFinite (i2f n) = true ∧ fVal (i2f n) = n * 2 ^ 149 := by
  have hbound : (n * 2 ^ 149).natAbs ≤ 2 ^ 24 * 2 ^ 149 := by
    rw [Int.natAbs_mul, Int.natAbs_pow]
    exact Nat.mul_le_mul_right _ h
  refine ⟨(Bounded.ofExact hbound (.of_le le_rfl (by omega))).1, ?_⟩
  exact fVal_ofExact_eq_of_dvd (g := 149) (by omega) (Dvd.intro_left n rfl)
    (by rw [pow_add, mul_comm (2 ^ 149)]; exact hbound)

theorem natAbs_toInt_raw (raw : Raw) : raw.toInt.natAbs ≤ 2 ^ 15 := by
  have h1 := BitVec.toInt_lt (x := raw)
  have h2 := BitVec.le_toInt raw
  omega

/-- The accelerometer scales are powers of two (R6). -/
theorem accelScale_spec (fs : BitVec 2) :
    isFinite (Config.accelScale fs) = true ∧
    fVal (Config.accelScale fs) = 2 ^ (14 - fs.toNat) * 2 ^ 149 := by
  revert fs
  decide

/-- The gyro scales are above 16 LSB per deg/s (R6). -/
theorem gyroScale_spec (fs : BitVec 2) :
    isFinite (Config.gyroScale fs) = true ∧ 16 * 2 ^ 149 ≤ fMag (Config.gyroScale fs) := by
  revert fs
  decide

/-- An accelerometer reading is divided by a power of two, which leaves its 16 bits as they are. -/
theorem fVal_convAccel (raw : Raw) (fs : BitVec 2) :
    isFinite (convAccel raw fs) = true ∧ fVal (convAccel raw fs) = raw.toInt * 2 ^ (135 + fs.toNat) := by
  have hraw := natAbs_toInt_raw raw
  obtain ⟨hfin, hval⟩ := fVal_i2f (n := raw.toInt) (by omega)
  obtain ⟨hscale, hscaleVal⟩ := accelScale_spec fs
  have hfs : fs.toNat ≤ 3 := by have := fs.isLt; omega
  have hexact : ((raw.toInt * 2 ^ (135 + fs.toNat) : Int) : ℚ) =
      (fVal (i2f raw.toInt) : ℚ) * 2 ^ 149 / fVal (Config.accelScale fs) := by
    rw [hval, hscaleVal]
    have hpow : (2 : ℚ) ^ (135 + fs.toNat) * 2 ^ (14 - fs.toNat) = 2 ^ 149 := by
      rw [← pow_add]; congr 1; omega
    push_cast
    rw [eq_div_iff (by positivity), ← hpow]
    ring
  have hbound : (raw.toInt * 2 ^ (135 + fs.toNat)).natAbs ≤ 2 ^ 24 * 2 ^ (135 + fs.toNat) := by
    rw [Int.natAbs_mul, Int.natAbs_pow]
    exact Nat.mul_le_mul_right _ (by omega)
  have hw := fVal_ofExact_eq_of_dvd (g := 135 + fs.toNat) (by omega) (Dvd.intro_left raw.toInt rfl)
    (by rw [pow_add 2 (135 + fs.toNat), mul_comm (2 ^ (135 + fs.toNat))]; exact hbound)
  have h0 : fMag (Config.accelScale fs) ≠ 0 := by
    rw [← natAbs_fVal, hscaleVal, Int.natAbs_ne_zero]
    positivity
  have hround := (fdiv_roundsTo hfin hscale h0).eq_of_finite
    (Bounded.ofExact hbound (.of_le le_rfl (by omega))).1 (by rw [hw, hexact])
  rw [← hexact] at hround
  exact ⟨hround.1, by exact_mod_cast hround.2⟩

/-- A converted accelerometer reading is at most 16 g. -/
theorem convAccel_bounded (raw : Raw) (fs : BitVec 2) : Bounded (convAccel raw fs) (16 * 2 ^ 149) := by
  obtain ⟨hfin, hval⟩ := fVal_convAccel raw fs
  have hraw := natAbs_toInt_raw raw
  have hfs : fs.toNat ≤ 3 := by have := fs.isLt; omega
  refine ⟨hfin, ?_⟩
  rw [← natAbs_fVal, hval, Int.natAbs_mul, Int.natAbs_pow]
  calc raw.toInt.natAbs * 2 ^ (135 + fs.toNat) ≤ 2 ^ 15 * 2 ^ 138 :=
        Nat.mul_le_mul hraw (Nat.pow_le_pow_right (by omega) (by omega))
    _ = 16 * 2 ^ 149 := by norm_num

/-- A converted gyro reading is at most 2048 deg/s. -/
theorem convGyro_bounded (raw : Raw) (fs : BitVec 2) : Bounded (convGyro raw fs) (2048 * 2 ^ 149) := by
  have hraw := natAbs_toInt_raw raw
  obtain ⟨hfin, hval⟩ := fVal_i2f (n := raw.toInt) (by omega)
  obtain ⟨hscale, hscaleMag⟩ := gyroScale_spec fs
  have hreading : Bounded (i2f raw.toInt) (2 ^ 15 * 2 ^ 149) := by
    refine ⟨hfin, ?_⟩
    rw [← natAbs_fVal, hval, Int.natAbs_mul, Int.natAbs_pow]
    exact Nat.mul_le_mul_right _ hraw
  exact hreading.fdiv hscale (by norm_num) hscaleMag (by norm_num) (.of_le (by norm_num) (by norm_num))

/-- Settles O54. -/
theorem conversionsAreExactOrBounded : Obligations.ConversionsAreExactOrBounded := by
  refine ⟨fun n => ⟨i2f_roundsTo n, fVal_i2f⟩, fun raw fs => ?_⟩
  obtain ⟨hfin, hval⟩ := fVal_convAccel raw fs
  refine ⟨hfin, ?_, (atMost_iff _ _).2 (convGyro_bounded raw fs)⟩
  have hscale : ∀ fs : BitVec 2, (2 : Int) ^ (135 + fs.toNat) * (16384 / 2 ^ fs.toNat) = 2 ^ 149 := by decide
  rw [hval, mul_assoc, hscale]

/-! ### The wrapped angle (R161) -/

/-- A value in the range wraps to itself (R160). -/
theorem wrap_of_bounded {L : WrapLimit} (h : Bounded a L.units.natAbs) : wrap L a = some a := by
  have hpos := L.units_pos
  have hle := h.2
  rw [← natAbs_fVal] at hle
  rw [wrap_of_finite h.1, if_pos (by omega)]

/-- `Wrap` answers a value in the range (R161). -/
theorem wrap_bounded {L : WrapLimit} {r : F32} (h : wrap L a = some r) : Bounded r L.units.natAbs := by
  have hpos := L.units_pos
  cases hfin : isFinite a with
  | false => rw [wrap_of_not_finite hfin] at h; cases h
  | true =>
    rw [wrap_of_finite hfin] at h
    split_ifs at h with hrange <;> obtain rfl := Option.some.inj h
    · exact ⟨hfin, by rw [← natAbs_fVal]; omega⟩
    · obtain ⟨t, ht, hL⟩ := L.units_eq
      refine .ofExact ?_ (by rw [hL, Int.natAbs_natCast]; exact .of_le (by norm_num) (by omega))
      have := natAbs_foldExact_le hpos (v := fVal a) (by omega)
      omega

/-- `Wrap` answers every finite value (R177). -/
theorem exists_wrap_eq_some (L : WrapLimit) (h : isFinite a = true) : ∃ r, wrap L a = some r := by
  rw [wrap_of_finite h]
  split <;> exact ⟨_, rfl⟩

/-- Settles O56. -/
theorem wrapIsIdempotentInRange : Obligations.WrapIsIdempotentInRange := by
  intro L a r h
  have hr := wrap_bounded h
  refine ⟨hr.1, ?_, wrap_of_bounded hr⟩
  have hle := hr.2
  rw [← natAbs_fVal] at hle
  cases L <;> exact hle

/-! ### The stationary test (R168) -/

/-- `fabs` answers no negative value (R11). -/
theorem fVal_fabs_nonneg (a : F32) : 0 ≤ fVal (fabs a) := by
  have hsign : fSign (fabs a) = false := by
    simp [fSign, fabs, BitVec.msb_and, show (0x7FFFFFFF#32).msb = false by decide]
  rw [fVal, hsign]
  exact Int.natCast_nonneg _

/-- No magnitude is below a zero of either sign. -/
theorem flt_fabs_zero {th : F32} (h : fBits th = 0) (a : F32) : flt (fabs a) th = false := by
  have hzero : fVal th = 0 := by rw [fVal_eq_zero_iff, fMag, h, magOfBits_zero]
  have hle := fVal_fabs_nonneg a
  simp [flt, hzero, hle]

/-- Settles O57: the strict test with a zero threshold fails. -/
theorem zeroThresholdDisablesBiasLearning : Obligations.ZeroThresholdDisablesBiasLearning := by
  intro a gz accTh gzTh beta bias h
  have hmoving : stationary a gz accTh gzTh = false := by
    rcases h with h | h <;> simp [stationary, flt_fabs_zero h]
  rw [hmoving]
  exact ⟨rfl, rfl⟩

end Sys2Proof.Machine
end

section
/-! PROOFS. The laws of `ATAN2_F32` that R14 lists, and the accelerometer's angles in degrees (00_scope.md R14;
42_update.md R163, R164). -/

namespace Sys2Proof.Machine

variable {a : F32}

theorem fneg_mkF32 (neg : Bool) {n : Nat} (h : n < 2 ^ 31) : fneg (mkF32 neg n) = mkF32 (!neg) n := by
  rw [← mkF32_parts (fneg (mkF32 neg n)), fSign_fneg, fBits_fneg, fSign_mkF32 neg h, fBits_mkF32 neg h]

theorem min_piBits_lt (n : Nat) : min n piBits < 2 ^ 31 :=
  (Nat.min_le_right ..).trans_lt (by decide)

theorem fBits_atan2F32 (y x : F32) : fBits (atan2F32 y x) = min (atan2Mag (fBits y) x) piBits :=
  fBits_mkF32 _ (min_piBits_lt _)

/-- Oddness in the first argument: its magnitude bits decide the magnitude, its sign the sign (R14). -/
theorem atan2F32_fneg (y x : F32) : atan2F32 (fneg y) x = fneg (atan2F32 y x) := by
  rw [atan2F32, atan2F32, fneg_mkF32 _ (min_piBits_lt _), fSign_fneg, fBits_fneg]

theorem fBits_atan2F32_le (y x : F32) : fBits (atan2F32 y x) ≤ piBits := by
  rw [fBits_atan2F32]
  exact Nat.min_le_right ..

/-- On a zero ordinate the angle is 0 or π, by the sign of the abscissa (R14). -/
theorem atan2Mag_of_zero {x : F32} (hx : isFinite x = true) :
    atan2Mag 0 x = if fSign x then piBits else 0 := by
  simp [atan2Mag, hx, infBits]

/-- On a zero abscissa of either sign the angle of another ordinate is π/2 (R14). -/
theorem atan2Mag_of_zero_abscissa {y x : F32} (hy : isFinite y = true) (hy0 : fMag y ≠ 0) (hx : fMag x = 0) :
    atan2Mag (fBits y) x = halfPiBits := by
  have hbits := (isFinite_iff y).1 hy
  have hmag : magOfBits (fBits y) ≠ 0 := hy0
  simp [atan2Mag, isFinite_of_fMag hx, Nat.not_le.2 hbits, hmag, hx]

/-- Magnitude bits order the bounds. -/
theorem Bounded.of_bits_le {neg : Bool} {r n : Nat} (hn : n < infBits) (h : r ≤ n) :
    Bounded (mkF32 neg r) (magOfBits n) := by
  have hr : r < 2 ^ 31 := (h.trans_lt hn).trans infBits_lt
  rw [Bounded, isFinite_iff, fMag, fBits_mkF32 neg hr]
  exact ⟨h.trans_lt hn, magOfBits_strictMono.monotone h⟩

/-- π_32 radians in degrees, rounded, is 180 exactly; so no smaller angle exceeds it (R163). -/
theorem degrees_bounded (h : fBits a ≤ piBits) : Bounded (fmul a Config.radToDeg) (180 * 2 ^ 149) := by
  have hfin : isFinite a = true := (isFinite_iff a).2 (h.trans_lt (by decide))
  have hscale : isFinite Config.radToDeg = true := by decide
  have hpi : roundMag (magOfBits piBits * fMag Config.radToDeg) (2 ^ 149) = fBits L180 := by decide +kernel
  have hround : roundMag (fMag a * fMag Config.radToDeg) (2 ^ 149) ≤ fBits L180 := by
    rw [← hpi]
    exact roundMag_mono (Nat.two_pow_pos 149) (Nat.mul_le_mul_right _ (magOfBits_strictMono.monotone h))
  have hlimit : magOfBits (fBits L180) = 180 * 2 ^ 149 := by decide
  rw [fmul_of_finite hfin hscale, ← hlimit]
  exact .of_bits_le (by decide) hround

theorem accAngleX_bounded (v : Vec3) : Bounded (accAngleX v) (180 * 2 ^ 149) :=
  degrees_bounded (fBits_atan2F32_le ..)

theorem accAngleY_bounded (v : Vec3) : Bounded (accAngleY v) (180 * 2 ^ 149) :=
  degrees_bounded (by rw [fBits_fneg]; exact fBits_atan2F32_le ..)

/-- Settles O58. -/
theorem arctangentLaws : Obligations.ArctangentLaws := by
  have hzero : fSign 0#32 = false ∧ fBits 0#32 = 0 := by decide
  refine ⟨atan2F32_fneg, fBits_atan2F32_le, fun x hx hsign => ?_, fun x hx hsign => ?_, fun y x hy hy0 hx => ?_,
    fun a => (atMost_iff _ _).2 (accAngleX_bounded a)⟩
  · rw [atan2F32, hzero.1, hzero.2, atan2Mag_of_zero hx, hsign]
    decide
  · rw [atan2F32, hzero.1, hzero.2, atan2Mag_of_zero hx, hsign]
    decide
  · rw [atan2F32, atan2Mag_of_zero_abscissa hy hy0 hx]
    cases fSign y <;> decide

end Sys2Proof.Machine
end

section
/-! PROOFS. The invariant of the registers and the sequencer over every step (10_state.md R24 to R50): what it says
of the registers and what of a running command, then the host's transactions, reset and the block steps. -/

namespace Sys2Proof.Machine

variable {s t u : State}

/-! ### The two parts of the invariant -/

/-- The part of `Legal` that speaks of the registers alone (R25 to R45). -/
structure RegistersLegal (s : State) : Prop where
  retryMax : s.retryMax ≠ 0#8
  calN : s.calN ≠ 0#16
  alpha : legalCoefficient s.alpha = true
  beta : legalCoefficient s.beta = true
  accStatTh : legalThreshold s.accStatTh = true
  gzStatTh : legalThreshold s.gzStatTh = true
  err : s.status.err.toNat ≤ 4
  lastOp : s.status.lastOp ≠ 3#2
  roll : atMost s.orient.roll 180 = true
  pitch : atMost s.orient.pitch 90 = true
  uncalibrated : s.status.calValid = false →
    s.offsets = { gyro := Vec3.zero, accel := Vec3.zero } ∧ s.status.tValid = false
  neverUpdated : s.status.tValid = false → s.orient = Orientation.reset

/-- The part of `Legal` that speaks of a running command (R24, R27, R31, R49, R50, R140). -/
structure SequencerLegal (s : State) : Prop where
  running : s.busy = true → s.status.done = false ∧ s.status.err = 0#3
  calibrating : s.seq.phase.calibrating = true → s.status.lastOp = 1#2
  updating : s.seq.phase.updating = true → s.status.lastOp = 2#2 ∧ s.status.calValid = true
  attempt : s.seq.phase.reads ≠ none → s.seq.attempt.toNat < s.retryMax.toNat
  sampleIdx : s.seq.phase = .calGyro ∨ s.seq.phase = .calAccel ∨ s.seq.phase = .calDelay →
    s.seq.sampleIdx.toNat < s.calN.toNat
  finished : s.seq.phase = .calFinish → s.seq.sampleIdx = s.calN

theorem legal_iff (s : State) : Legal s ↔ RegistersLegal s ∧ SequencerLegal s :=
  ⟨fun h => ⟨⟨h.retryMax, h.calN, h.alpha, h.beta, h.accStatTh, h.gzStatTh, h.err, h.lastOp, h.roll, h.pitch,
      h.uncalibrated, h.neverUpdated⟩,
      ⟨h.running, h.calibrating, h.updating, h.attempt, h.sampleIdx, h.finished⟩⟩,
    fun ⟨r, q⟩ => ⟨r.retryMax, r.calN, r.alpha, r.beta, r.accStatTh, r.gzStatTh, r.err, r.lastOp, r.roll, r.pitch,
      r.uncalibrated, r.neverUpdated, q.running, q.calibrating, q.updating, q.attempt, q.sampleIdx, q.finished⟩⟩

/-- The registers stay legal where a step writes none but the other flags, a legal ERR and a legal LAST_OP. -/
theorem RegistersLegal.of_update (h : RegistersLegal s) {done cmdRej wrRej : Bool} {err : BitVec 3}
    {lastOp : BitVec 2} {seq : Sequencer} {env : Env} (herr : err.toNat ≤ 4) (hlastOp : lastOp ≠ 3#2) :
    RegistersLegal { s with
      status := { s.status with done := done, cmdRej := cmdRej, wrRej := wrRej, err := err, lastOp := lastOp }
      seq := seq, env := env } :=
  { h with err := herr, lastOp := hlastOp }

/-- A command that does not run asks for nothing. -/
theorem SequencerLegal.of_idle (hidle : t.seq.phase = .idle) : SequencerLegal t where
  running := fun h => absurd hidle ((State.busy_eq_true t).1 h)
  calibrating := by rw [hidle]; exact fun h => (by cases h)
  updating := by rw [hidle]; exact fun h => (by cases h)
  attempt := by rw [hidle]; exact fun h => absurd rfl h
  sampleIdx := by rw [hidle]; exact fun h => (by rcases h with h | h | h <;> cases h)
  finished := by rw [hidle]; exact fun h => (by cases h)

theorem Legal.of_idle (h : RegistersLegal t) (hidle : t.seq.phase = .idle) : Legal t :=
  (legal_iff t).2 ⟨h, .of_idle hidle⟩

/-- Outside the step that accepts it a running command changes its own variables only. -/
theorem SequencerLegal.of_running (h : SequencerLegal s) (hbusy : s.busy = true) {seq : Sequencer} {env : Env}
    (hcalibrating : seq.phase.calibrating = true → s.seq.phase.calibrating = true)
    (hupdating : seq.phase.updating = true → s.seq.phase.updating = true)
    (hattempt : seq.phase.reads ≠ none → seq.attempt.toNat < s.retryMax.toNat)
    (hsampleIdx : seq.phase = .calGyro ∨ seq.phase = .calAccel ∨ seq.phase = .calDelay →
      seq.sampleIdx.toNat < s.calN.toNat)
    (hfinished : seq.phase = .calFinish → seq.sampleIdx = s.calN) :
    SequencerLegal { s with seq := seq, env := env } where
  running := fun _ => h.running hbusy
  calibrating := fun hp => h.calibrating (hcalibrating hp)
  updating := fun hp => h.updating (hupdating hp)
  attempt := hattempt
  sampleIdx := hsampleIdx
  finished := hfinished

/-- A flag of rejection, an acknowledgement or a response leaves a running command alone. -/
theorem SequencerLegal.of_flags (h : SequencerLegal s) {done cmdRej wrRej : Bool} {env : Env}
    (hdone : done = true → s.status.done = true) :
    SequencerLegal { s with
      status := { s.status with done := done, cmdRej := cmdRej, wrRej := wrRej }, env := env } :=
  { h with
    running := fun hbusy => by
      obtain ⟨hfalse, herr⟩ := h.running hbusy
      refine ⟨?_, herr⟩
      by_contra hnot
      rw [hdone (by simpa using hnot)] at hfalse
      cases hfalse }

theorem Legal.of_flags (h : Legal s) {done cmdRej wrRej : Bool} {env : Env}
    (hdone : done = true → s.status.done = true) :
    Legal { s with status := { s.status with done := done, cmdRej := cmdRej, wrRej := wrRej }, env := env } := by
  rw [legal_iff] at h ⊢
  exact ⟨h.1.of_update h.1.err h.1.lastOp, h.2.of_flags hdone⟩

theorem Legal.with_env (h : Legal s) (env : Env) : Legal { s with env := env } := h.of_flags id

theorem toNat_pos_of_ne_zero {n : Nat} {v : BitVec n} (h : v ≠ 0#n) : 0 < v.toNat :=
  Nat.pos_of_ne_zero fun h0 => h (BitVec.eq_of_toNat_eq (by simpa using h0))

/-! ### Reset and the host's transactions -/

theorem legal_reset : Legal State.reset :=
  { retryMax := by decide, calN := by decide, alpha := by decide, beta := by decide, accStatTh := by decide
    gzStatTh := by decide, err := by decide, lastOp := by decide, roll := by decide, pitch := by decide
    uncalibrated := by decide, neverUpdated := by decide, running := by decide, calibrating := by decide
    updating := by decide, attempt := by decide, sampleIdx := by decide, finished := by decide }

theorem legal_acceptCalibrate (h : Legal s) : Legal s.acceptCalibrate := by
  rw [legal_iff] at h ⊢
  obtain ⟨hregs, -⟩ := h
  refine ⟨hregs.of_update (Nat.zero_le _) (by decide), ?_⟩
  exact {
    running := fun _ => ⟨rfl, rfl⟩
    calibrating := fun _ => rfl
    updating := fun hp => (by cases hp)
    attempt := fun _ => toNat_pos_of_ne_zero hregs.retryMax
    sampleIdx := fun _ => toNat_pos_of_ne_zero hregs.calN
    finished := fun hp => (by cases hp) }

theorem legal_acceptUpdate (h : Legal s) : Legal s.acceptUpdate := by
  rw [legal_iff] at h ⊢
  obtain ⟨hregs, -⟩ := h
  rcases State.acceptUpdate_cases (s := s) with ⟨hcal, hu⟩ | ⟨-, hu⟩ <;> rw [hu]
  · refine ⟨hregs.of_update (Nat.zero_le _) (by decide), ?_⟩
    exact {
      running := fun _ => ⟨rfl, rfl⟩
      calibrating := fun hp => (by cases hp)
      updating := fun _ => ⟨rfl, hcal⟩
      attempt := fun _ => toNat_pos_of_ne_zero hregs.retryMax
      sampleIdx := fun hp => (by rcases hp with hp | hp | hp <;> cases hp)
      finished := fun hp => (by cases hp) }
  · exact ⟨hregs.of_update (by decide) (by decide), .of_idle rfl⟩

/-- Every transaction keeps the invariant: a configuration value is stored while idle and legal (R107). -/
theorem legal_exec {i : Instr} (hs : Legal s) (h : exec i s = .next t) : Legal t := by
  obtain ⟨u, hu, hcases⟩ := exec_cases i s
  obtain rfl : u = t := Host.Outcome.next.inj (hu.symm.trans h)
  rcases hcases with rfl | ⟨v, rfl⟩ | rfl | rfl | ⟨d, rfl⟩ | ⟨hidle, hstored⟩
  · exact hs
  · exact hs.with_env _
  · exact hs.of_flags id
  · exact hs.of_flags id
  · exact hs.of_flags fun hdone => (Bool.and_eq_true _ _ ▸ hdone : s.status.done = true ∧ _).1
  · rw [State.busy_eq_false] at hidle
    obtain ⟨hregs, -⟩ := (legal_iff s).1 hs
    rcases hstored with ⟨c, rfl⟩ | ⟨v, hv, rfl⟩ | ⟨v, hv, rfl⟩ | ⟨v, hv, rfl | rfl⟩ | ⟨v, hv, rfl | rfl⟩ | rfl | rfl
    · exact .of_idle { hregs with retryMax := hregs.retryMax } hidle
    · exact .of_idle { hregs with retryMax := hv } hidle
    · exact .of_idle { hregs with calN := hv } hidle
    · exact .of_idle { hregs with alpha := hv } hidle
    · exact .of_idle { hregs with beta := hv } hidle
    · exact .of_idle { hregs with accStatTh := hv } hidle
    · exact .of_idle { hregs with gzStatTh := hv } hidle
    · exact legal_acceptCalibrate hs
    · exact legal_acceptUpdate hs

/-! ### Block steps -/

/-- Completion with a result code (R201). -/
theorem legal_complete (h : RegistersLegal s) (code : ResultCode) : Legal (s.complete code) :=
  .of_idle (h.of_update (by cases code <;> decide) h.lastOp) rfl

theorem legal_failedAttempt {k : SensorKind} (hs : Legal s) (hk : s.seq.phase.reads = some k) :
    Legal (s.failedAttempt k) := by
  obtain ⟨hregs, hseq⟩ := (legal_iff s).1 hs
  rcases State.failedAttempt_cases (s := s) k with ⟨-, h⟩ | ⟨hnot, h⟩ <;> rw [h, legal_iff]
  · exact ⟨hregs.of_update (by cases k <;> decide) hregs.lastOp, .of_idle rfl⟩
  · refine ⟨hregs.of_update hregs.err hregs.lastOp, hseq.of_running (busy_of_reads hk) id id (fun hr => ?_)
      hseq.sampleIdx hseq.finished⟩
    have hbelow := hseq.attempt hr
    have hmax := s.retryMax.isLt
    have hnext : (s.seq.attempt + 1#8).toNat = (s.seq.attempt.toNat + 1) % 2 ^ 8 := by
      rw [BitVec.toNat_add, BitVec.toNat_ofNat]
    rw [ne_eq, ← BitVec.toNat_inj] at hnot
    show (s.seq.attempt + 1#8).toNat < s.retryMax.toNat
    omega

theorem busy_of_phase {p : Phase} (h : s.seq.phase = p) (hp : p ≠ .idle) : s.busy = true :=
  (State.busy_eq_true s).2 (h ▸ hp)

theorem legal_addGyroSample {x y z : Raw} (hs : Legal s) (hp : s.seq.phase = .calGyro) :
    Legal (s.addGyroSample x y z) := by
  obtain ⟨hregs, hseq⟩ := (legal_iff s).1 hs
  refine (legal_iff _).2 ⟨hregs.of_update hregs.err hregs.lastOp, hseq.of_running
    (busy_of_phase hp (by decide)) ?_ ?_ ?_ ?_ ?_⟩
  · exact fun _ => by rw [hp]; rfl
  · exact fun h => (by cases h)
  · exact fun _ => toNat_pos_of_ne_zero hregs.retryMax
  · exact fun _ => hseq.sampleIdx (.inl hp)
  · exact fun h => (by cases h)

/-- A sample that is not the last leaves another to be taken (R140). -/
theorem legal_endSample {x y z : Raw} (hs : Legal s) (hp : s.seq.phase = .calAccel)
    (h : s.endSample x y z = some t) : Legal t := by
  obtain ⟨hregs, hseq⟩ := (legal_iff s).1 hs
  have hbusy := busy_of_phase hp (by decide)
  rcases State.endSample_cases h with ⟨hlast, rfl⟩ | ⟨hmore, m, rest, -, rfl⟩
  · refine (legal_iff _).2 ⟨hregs.of_update hregs.err hregs.lastOp, hseq.of_running hbusy ?_ ?_ ?_ ?_ ?_⟩
    · exact fun _ => by rw [hp]; rfl
    · exact fun h => (by cases h)
    · exact fun h => absurd rfl h
    · exact fun h => (by rcases h with h | h | h <;> cases h)
    · exact fun _ => hlast
  · refine (legal_iff _).2 ⟨hregs.of_update hregs.err hregs.lastOp, hseq.of_running hbusy ?_ ?_ ?_ ?_ ?_⟩
    · exact fun _ => by rw [hp]; rfl
    · exact fun h => (by cases h)
    · exact fun h => absurd rfl h
    · intro _
      have hbelow := hseq.sampleIdx (.inr (.inl hp))
      have hmax := s.calN.isLt
      have hnext : (s.seq.sampleIdx + 1#16).toNat = (s.seq.sampleIdx.toNat + 1) % 2 ^ 16 := by
        rw [BitVec.toNat_add, BitVec.toNat_ofNat]
      have hne : (s.seq.sampleIdx + 1#16).toNat ≠ s.calN.toNat := fun heq => hmore (BitVec.eq_of_toNat_eq heq)
      show (s.seq.sampleIdx + 1#16).toNat < s.calN.toNat
      omega
    · exact fun h => (by cases h)

theorem legal_stepCalDelay (hs : Legal s) (hp : s.seq.phase = .calDelay) (h : s.stepCalDelay = some t) :
    Legal t := by
  obtain ⟨hregs, hseq⟩ := (legal_iff s).1 hs
  obtain ⟨m, rest, -, ⟨-, rfl⟩ | ⟨-, rfl⟩⟩ := State.stepCalDelay_cases h
  · refine (legal_iff _).2 ⟨hregs.of_update hregs.err hregs.lastOp, hseq.of_running
      (busy_of_phase hp (by decide)) ?_ ?_ ?_ ?_ ?_⟩
    · exact fun _ => by rw [hp]; rfl
    · exact fun h => (by cases h)
    · exact fun _ => toNat_pos_of_ne_zero hregs.retryMax
    · exact fun _ => hseq.sampleIdx (.inr (.inr hp))
    · exact fun h => (by cases h)
  · exact hs.with_env _

theorem legal_stepCalFinish (hs : Legal s) : Legal s.stepCalFinish := by
  obtain ⟨hregs, -⟩ := (legal_iff s).1 hs
  exact legal_complete (s := { s with
    offsets := s.stepCalFinish.offsets, status := { s.status with calValid := true } })
    { hregs with uncalibrated := fun h => (by cases h) } .ok

theorem legal_stepUpdAccel {v : Vec3} (hs : Legal s) (hp : s.seq.phase = .updAccel) :
    Legal (({ s with seq := { s.seq with acal := v } } : State).enterRead .updGyro) := by
  obtain ⟨hregs, hseq⟩ := (legal_iff s).1 hs
  refine (legal_iff _).2 ⟨hregs.of_update hregs.err hregs.lastOp, hseq.of_running
    (busy_of_phase hp (by decide)) ?_ ?_ ?_ ?_ ?_⟩
  · exact fun h => (by cases h)
  · exact fun _ => by rw [hp]; rfl
  · exact fun _ => toNat_pos_of_ne_zero hregs.retryMax
  · exact fun h => (by rcases h with h | h | h <;> cases h)
  · exact fun h => (by cases h)

/-- Roll and pitch of an estimate come out of `Wrap` (R161, R166, R167). -/
theorem fuse_bounded {L : WrapLimit} {alpha gint acc r : F32} (h : fuse L alpha gint acc = some r) :
    Bounded r L.units.natAbs := by
  rw [fuse_eq_bind] at h
  obtain ⟨w, -, h⟩ := Option.bind_eq_some_iff.1 h
  exact wrap_bounded h

theorem estimate_angles {a g : Vec3} {tNow : Time} {o : Orientation} (h : s.estimate a g tNow = some o) :
    atMost o.roll 180 = true ∧ atMost o.pitch 90 = true := by
  rw [State.estimate_eq_bind] at h
  obtain ⟨r, hr, h⟩ := Option.bind_eq_some_iff.1 h
  obtain ⟨p, hp, rfl⟩ := Option.map_eq_some_iff.1 h
  exact ⟨(atMost_iff _ _).2 (fuse_bounded hr), (atMost_iff _ _).2 (fuse_bounded hp)⟩

theorem legal_finishUpdate {x y z : Raw} (hs : Legal s) (hp : s.seq.phase = .updGyro)
    (h : s.finishUpdate x y z = some t) : Legal t := by
  obtain ⟨m, rest, -, ⟨o, ho, rfl⟩ | ⟨-, rfl⟩⟩ := State.finishUpdate_cases h
  · obtain ⟨hregs, hseq⟩ := (legal_iff _).1 (hs.with_env { s.env with clock := rest })
    obtain ⟨hroll, hpitch⟩ := estimate_angles ho
    have hcal : s.status.calValid = true := (hs.updating (by rw [hp]; rfl)).2
    refine legal_complete (s := { ({ s with env := { s.env with clock := rest } } : State) with
      orient := o, status := { s.status with tValid := true } }) ?_ .ok
    exact { hregs with
      roll := hroll
      pitch := hpitch
      uncalibrated := fun h => absurd hcal (Bool.eq_false_iff.1 h)
      neverUpdated := fun h => (by cases h) }
  · exact legal_complete ((legal_iff _).1 (hs.with_env _)).1 .numeric

theorem legal_sensorRead {k : SensorKind} {a : SensorAnswer} (hs : Legal s) (h : s.sensorRead k = some (a, u)) :
    Legal u ∧ u.seq = s.seq := by
  obtain ⟨hu, -⟩ := State.sensorRead_frame h
  rw [hu]
  exact ⟨hs.with_env _, rfl⟩

/-- Every enabled block step keeps the invariant. -/
theorem legal_blockAction (hs : Legal s) (h : s.blockAction = some t) : Legal t := by
  rcases blockAction_cases h with ⟨k, u, hk, hr, rfl⟩ | ⟨hp, x, y, z, u, hr, rfl⟩ | ⟨hp, x, y, z, u, hr, hend⟩ |
    ⟨hp, hdelay⟩ | ⟨-, rfl⟩ | ⟨hp, x, y, z, u, hr, rfl⟩ | ⟨hp, x, y, z, u, hr, hfinish⟩
  case inr.inr.inr.inl => exact legal_stepCalDelay hs hp hdelay
  case inr.inr.inr.inr.inl => exact legal_stepCalFinish hs
  all_goals obtain ⟨hu, hseq⟩ := legal_sensorRead hs hr
  · exact legal_failedAttempt hu (hseq ▸ hk)
  · exact legal_addGyroSample hu (hseq ▸ hp)
  · exact legal_endSample hu (hseq ▸ hp) hend
  · exact legal_stepUpdAccel hu (hseq ▸ hp)
  · exact legal_finishUpdate hu (hseq ▸ hp) hfinish

theorem legal_blockStep (hs : Legal s) : Legal s.blockStep := by
  rcases blockStep_cases s with ⟨-, h⟩ | ⟨t, ht, h⟩ <;> rw [h]
  · exact hs
  · exact legal_blockAction hs ht

/-- Settles O46, by the kinds of step. -/
theorem stepKeepsLegal : Obligations.StepKeepsLegal := by
  intro s t hs h
  rcases step_cases s with ⟨-, hstep⟩ | ⟨p, rest, -, hstep⟩ | ⟨rest, -, hstep⟩ | ⟨rest, -, hstep⟩ <;>
    rw [hstep] at h
  case inr.inl => exact legal_exec (hs.with_env _) h
  all_goals obtain rfl := Host.Outcome.next.inj h
  case inl => exact legal_blockStep hs
  case inr.inr.inl => exact legal_blockStep (hs.with_env _)
  case inr.inr.inr => exact legal_reset.with_env _

end Sys2Proof.Machine
end

section
/-! PROOFS. The numeric bounds over every step (00_scope.md R13; 42_update.md R177): the bounds of the values that one
update computes, of which the blend of the yaw bias is the one that rounding meets exactly; then the sums and the
offsets of a calibration; then the steps. -/

namespace Sys2Proof.Machine

variable {s t u : State} {a b : F32}

/-! ### The blend of the yaw bias (R169) -/

/-- A value less than half way from a finite magnitude to the next rounds to at most it. -/
theorem roundMag_le_of_lt_half {p q n : Nat} (hq : 0 < q)
    (h : 2 * p < (magOfBits n + magOfBits (n + 1)) * q) : roundMag p q ≤ n := by
  obtain ⟨m, k, hm, hm1, hround, hcase⟩ := roundMag_neighbours_nat p hq
  have hmono := magOfBits_strictMono.monotone
  by_contra hgt
  have hk : n < k := by omega
  rcases hcase with ⟨rfl, -⟩ | ⟨rfl, hup⟩
  · have h1 : magOfBits (n + 1) * q ≤ magOfBits k * q := Nat.mul_le_mul_right q (hmono hk)
    have h0 : magOfBits n * q ≤ magOfBits (n + 1) * q := Nat.mul_le_mul_right q (hmono (Nat.le_succ n))
    rw [add_mul] at h
    omega
  · have hle : (magOfBits n + magOfBits (n + 1)) * q ≤ (magOfBits m + magOfBits (m + 1)) * q :=
      Nat.mul_le_mul_right q (Nat.add_le_add (hmono (by omega)) (hmono (by omega)))
    omega

/-- A sum less than half way to the next magnitude is bounded by it. -/
theorem fadd_bounded_of_lt_half {n : Nat} (ha : isFinite a = true) (hb : isFinite b = true) (hn : n < infBits)
    (h : 2 * (fMag a + fMag b) < magOfBits n + magOfBits (n + 1)) : Bounded (fadd a b) (magOfBits n) := by
  have habs : (fVal a + fVal b).natAbs ≤ fMag a + fMag b := by
    rw [← natAbs_fVal a, ← natAbs_fVal b]
    exact Int.natAbs_add_le ..
  rw [fadd_of_finite ha hb]
  split
  · exact .of_bits_le hn (Nat.zero_le n)
  · exact .of_bits_le hn (roundMag_le_of_lt_half (by omega) (by omega))

/-- A magnitude keeps its 24 bits when it is multiplied by a power of two. -/
theorem Representable.mul_two_pow {j : Nat} (h : fMag a < 2 ^ 200) (hj : j ≤ 50) :
    Representable (fMag a * 2 ^ j) := by
  obtain ⟨e, k, hbits, hk, hek⟩ := exists_significand (fBits a)
  rw [fMag, hbits, magOfBits_eq e k hk.le hek] at h ⊢
  rw [mul_assoc, ← pow_add]
  refine .of_le hk.le ?_
  rcases hek with rfl | hnormal
  · omega
  · have hlt : 2 ^ (23 + e) < 2 ^ 200 := by
      rw [pow_add]
      exact (Nat.mul_le_mul_right _ hnormal).trans_lt h
    have := (Nat.pow_lt_pow_iff_right Nat.one_lt_two).1 hlt
    omega

theorem Representable.two_pow {i j : Nat} (h : i + j < 253) : Representable (2 ^ i * 2 ^ j) := by
  rw [← pow_add]
  exact exists_magOfBits_eq_two_pow h

theorem Bounded.fmul_two_pow {j : Nat} (ha : isFinite a = true) (hsmall : fMag a < 2 ^ 200) (hj : j ≤ 50)
    (hb : Bounded b (2 ^ j * 2 ^ 149)) : Bounded (Machine.fmul a b) (fMag a * 2 ^ j) :=
  Bounded.fmul ⟨ha, le_rfl⟩ hb (le_of_eq (by ring)) (.mul_two_pow hsmall hj)

/-- A legal coefficient is a value from 0 to 1 (R112, R113). -/
theorem coefficient_value (h : legalCoefficient a = true) :
    Bounded a (2 ^ 149) ∧ fVal a = fMag a := by
  obtain ⟨hthreshold, hle⟩ := (legalCoefficient_iff_val a).1 h
  obtain ⟨-, hnonneg⟩ := (legalThreshold_iff_val a).1 hthreshold
  have hval : fVal a = fMag a := by rw [← natAbs_fVal]; omega
  have hone : fVal ONE = 2 ^ 149 := by decide
  have hmag : fMag a ≤ 2 ^ 149 := by rw [hval, hone] at hle; exact_mod_cast hle
  refine ⟨⟨?_, hmag⟩, hval⟩
  rw [isFinite_iff, ← magOfBits_strictMono.lt_iff_lt, magOfBits_inf]
  exact hmag.trans_lt (pow_lt_pow_right₀ one_lt_two (by norm_num))

/-- 1 - β, rounded, is less than 2^-24 above its exact value. -/
theorem one_sub_coefficient (h : legalCoefficient b = true) :
    isFinite (fsub ONE b) = true ∧ fMag (fsub ONE b) + fMag b < 2 ^ 149 + 2 ^ 125 := by
  obtain ⟨⟨hfin, hle⟩, hval⟩ := coefficient_value h
  have hone : isFinite ONE = true ∧ fVal ONE = 2 ^ 149 := by decide
  have hneg : fVal (fneg b) = -fVal b := by
    rw [fVal, fVal, fSign_fneg, fMag, fBits_fneg]
    cases fSign b <;> simp [fMag]
  have hsum : (fVal ONE + fVal (fneg b)).natAbs = 2 ^ 149 - fMag b := by
    rw [hneg, hval, hone.2]
    omega
  obtain ⟨n, hn, hmag⟩ := exists_finite_magOfBits_eq (e := 125) (k := (2 ^ 149 - fMag b + (2 ^ 125 - 1)) / 2 ^ 125)
    (by omega) (by norm_num)
  obtain ⟨hf, hb⟩ := fadd_bound hone.1 (Bounded.fneg ⟨hfin, le_rfl⟩).1 hn (by rw [hsum, hmag]; omega)
  refine ⟨hf, ?_⟩
  rw [hmag] at hb
  rw [fsub]
  omega

/-- The bias stays within 2^14 deg/s: rounding up can take the blend no more than half way beyond (R169). -/
theorem blend_bounded {beta bias gz : F32} (hbeta : legalCoefficient beta = true)
    (hbias : Bounded bias (2 ^ 14 * 2 ^ 149)) (hgz : Bounded gz (2 ^ 12 * 2 ^ 149)) :
    Bounded (fadd (fmul (fsub ONE beta) bias) (fmul beta gz)) (2 ^ 14 * 2 ^ 149) := by
  obtain ⟨hbfin, hble⟩ := (coefficient_value hbeta).1
  obtain ⟨hcfin, hsum⟩ := one_sub_coefficient hbeta
  obtain ⟨hold, holdMag⟩ := Bounded.fmul_two_pow (j := 14) hcfin (by omega) (by norm_num) hbias
  obtain ⟨hnew, hnewMag⟩ := Bounded.fmul_two_pow (j := 12) hbfin (by omega) (by norm_num) hgz
  have hmag : magOfBits (140 * 2 ^ 23 + 2 ^ 23) = 2 ^ 14 * 2 ^ 149 := by
    rw [magOfBits_eq 140 (2 ^ 23) (by norm_num) (by norm_num)]; norm_num
  have hnext : magOfBits (140 * 2 ^ 23 + 2 ^ 23 + 1) = 2 ^ 14 * 2 ^ 149 + 2 ^ 140 := by
    rw [Nat.add_assoc, magOfBits_eq 140 (2 ^ 23 + 1) (by norm_num) (by norm_num)]; norm_num
  rw [← hmag]
  exact fadd_bounded_of_lt_half hold hnew (by norm_num [infBits]) (by rw [hmag, hnext]; omega)

/-! ### One update -/

/-- An elapsed time is less than 2^44 seconds (R165). -/
theorem elapsed_bounded {tValid : Bool} {tLast tNow : Time} {dt : F32} (h : elapsed tValid tLast tNow = some dt) :
    Bounded dt (2 ^ 44 * 2 ^ 149) := by
  unfold elapsed at h
  split_ifs at h
  obtain rfl := Option.some.inj h
  have hlt := BitVec.toInt_lt (x := tNow - tLast)
  have hge := BitVec.le_toInt (tNow - tLast)
  have hticks : Bounded (i2f (tNow - tLast).toInt) (2 ^ 63 * 2 ^ 149) := by
    refine .ofExact ?_ (.two_pow (by norm_num))
    rw [Int.natAbs_mul, Int.natAbs_pow]
    exact Nat.mul_le_mul_right _ (by omega)
  obtain ⟨hfin, hval⟩ := fVal_i2f (n := Config.timeHz) (by decide)
  have hhz : 2 ^ 19 * 2 ^ 149 ≤ fMag (i2f Config.timeHz) := by
    rw [← natAbs_fVal, hval]
    decide
  exact hticks.fdiv hfin (by norm_num) hhz (by norm_num) (.two_pow (by norm_num))

/-- What an integration adds is bounded (R166, R167). -/
theorem integrate_bounded {prev rate : F32} {tValid : Bool} {tLast tNow : Time}
    (hprev : Bounded prev (180 * 2 ^ 149)) (hrate : Bounded rate (2 ^ 12 * 2 ^ 149)) :
    Bounded (integrate prev rate (elapsed tValid tLast tNow)) (2 ^ 57 * 2 ^ 149) := by
  cases h : elapsed tValid tLast tNow with
  | none => exact hprev.mono (by norm_num)
  | some dt =>
    have hturn : Bounded (fmul rate dt) (2 ^ 56 * 2 ^ 149) :=
      hrate.fmul (elapsed_bounded h) (by norm_num) (.two_pow (by norm_num))
    exact hprev.fadd hturn (by norm_num) (.two_pow (by norm_num))

theorem orientationSign_bounded (az : F32) : Bounded (orientationSign az) (2 ^ 149) := by
  rw [orientationSign]
  split
  · exact ⟨by decide, by decide⟩
  · exact ⟨by decide, by decide⟩

/-- A blend of bounded angles never meets a non-finite value (R177). -/
theorem exists_fuse_eq_some (L : WrapLimit) {alpha gint acc : F32} (halpha : legalCoefficient alpha = true)
    (hgint : Bounded gint (2 ^ 57 * 2 ^ 149)) (hacc : Bounded acc (180 * 2 ^ 149)) :
    ∃ r, fuse L alpha gint acc = some r := by
  have hcoefficient := (coefficient_value halpha).1
  have hdiff : Bounded (fsub gint acc) (2 ^ 58 * 2 ^ 149) := hgint.fsub hacc (by norm_num) (.two_pow (by norm_num))
  obtain ⟨w, hw⟩ := exists_wrap_eq_some L hdiff.1
  have hwrapped : Bounded w (180 * 2 ^ 149) := (wrap_bounded hw).mono (by cases L <;> decide)
  have hsum : Bounded (fadd acc w) (2 ^ 9 * 2 ^ 149) := hacc.fadd hwrapped (by norm_num) (.two_pow (by norm_num))
  have hone : Bounded ONE (2 ^ 149) := ⟨by decide, by decide⟩
  have hrest : Bounded (fsub ONE alpha) (2 ^ 1 * 2 ^ 149) :=
    hone.fsub hcoefficient (by norm_num) (.two_pow (by norm_num))
  have hnew : Bounded (fmul alpha (fadd acc w)) (2 ^ 9 * 2 ^ 149) :=
    hcoefficient.fmul hsum (by norm_num) (.two_pow (by norm_num))
  have hold : Bounded (fmul (fsub ONE alpha) acc) (2 ^ 9 * 2 ^ 149) :=
    hrest.fmul hacc (by norm_num) (.two_pow (by norm_num))
  have hblend : Bounded (fadd (fmul alpha (fadd acc w)) (fmul (fsub ONE alpha) acc)) (2 ^ 10 * 2 ^ 149) :=
    hnew.fadd hold (by norm_num) (.two_pow (by norm_num))
  rw [fuse_eq_bind, hw]
  exact exists_wrap_eq_some L hblend.1

/-- A sum is no NaN where one operand is finite and the other none (R13). -/
theorem fadd_not_nan (ha : isNaN a = false) (hb : isFinite b = true) : isNaN (fadd a b) = false := by
  rcases isFinite_or_isInf ha with hfin | hinf
  · rw [fadd_of_finite hfin hb, isNaN_eq_false_iff]
    split
    · rw [fBits_mkF32 _ (by norm_num)]
      exact Nat.zero_le _
    · rw [ofExact, fBits_mkF32 _ ((roundMag_le_inf _ _).trans_lt infBits_lt)]
      exact roundMag_le_inf _ _
  · have hsum : fadd a b = a := ((sumIsRoundedToNearestEven a b).2.1 hinf hb).1
    rw [hsum, ha]

/-- What `NumericSafe` needs of an estimate, from what it has: the rates of a calibrated gyro triple are bounded, and
so are the old angles, the bias and the coefficients (R162 to R171). -/
theorem exists_estimate_eq_some (h : NumericSafe s) {v g : Vec3} (tNow : Time) (hx : Bounded g.x (2 ^ 12 * 2 ^ 149))
    (hy : Bounded g.y (2 ^ 12 * 2 ^ 149)) (hz : Bounded g.z (2 ^ 12 * 2 ^ 149)) :
    ∃ o, s.estimate v g tNow = some o ∧ Bounded o.yawBias (2 ^ 14 * 2 ^ 149) ∧ isNaN o.yaw = false := by
  have hroll : Bounded s.orient.roll (180 * 2 ^ 149) := (atMost_iff _ _).1 h.legal.roll
  have hpitch : Bounded s.orient.pitch (180 * 2 ^ 149) := ((atMost_iff _ _).1 h.legal.pitch).mono (by norm_num)
  have hold : Bounded s.orient.yawBias (2 ^ 14 * 2 ^ 149) := (atMost_iff _ _).1 h.yawBias
  have hrate : Bounded (fmul (orientationSign v.z) g.y) (2 ^ 12 * 2 ^ 149) :=
    (orientationSign_bounded v.z).fmul hy (by norm_num) (.two_pow (by norm_num))
  obtain ⟨r, hr⟩ := exists_fuse_eq_some .l180 h.legal.alpha
    (integrate_bounded (tValid := s.status.tValid) (tLast := s.orient.tLast) (tNow := tNow) hroll hx)
    (accAngleX_bounded v)
  obtain ⟨p, hp⟩ := exists_fuse_eq_some .l90 h.legal.alpha
    (integrate_bounded (tValid := s.status.tValid) (tLast := s.orient.tLast) (tNow := tNow) hpitch hrate)
    (accAngleY_bounded v)
  have hfusedRoll : s.fusedRoll v g tNow = some r := hr
  have hfusedPitch : s.fusedPitch v g tNow = some p := hp
  have hbias : Bounded (s.updatedBias v g) (2 ^ 14 * 2 ^ 149) := by
    rw [State.updatedBias, newBias]
    split
    · exact blend_bounded h.legal.beta hold hz
    · exact hold
  have hyaw : isNaN (s.updatedYaw v g tNow) = false := by
    have hcorrected : Bounded (fsub g.z (s.updatedBias v g)) (2 ^ 15 * 2 ^ 149) :=
      hz.fsub hbias (by norm_num) (.two_pow (by norm_num))
    rw [State.updatedYaw]
    cases helapsed : elapsed s.status.tValid s.orient.tLast tNow with
    | none => exact h.yaw
    | some dt =>
      have hturn : Bounded (fmul (fsub g.z (s.updatedBias v g)) dt) (2 ^ 59 * 2 ^ 149) :=
        hcorrected.fmul (elapsed_bounded helapsed) (by norm_num) (.two_pow (by norm_num))
      exact fadd_not_nan h.yaw hturn.1
  exact ⟨_, by rw [State.estimate_eq_bind, hfusedRoll, hfusedPitch]; rfl, hbias, hyaw⟩

/-! ### Sums and offsets axis by axis (R132, R139, R140, R142) -/

theorem Vec3.map2_fadd_atMost {v w : Vec3} {A B C : Nat} (hv : v.atMost A = true) (hw : w.atMost B = true)
    (h : A + B ≤ C) (hC : Representable (C * 2 ^ 149)) : (Vec3.map2 fadd v w).atMost C = true := by
  rw [Vec3.atMost_iff] at hv hw ⊢
  obtain ⟨hvx, hvy, hvz⟩ := hv
  obtain ⟨hwx, hwy, hwz⟩ := hw
  have hle : A * 2 ^ 149 + B * 2 ^ 149 ≤ C * 2 ^ 149 := by
    rw [← Nat.add_mul]
    exact Nat.mul_le_mul_right _ h
  exact ⟨hvx.fadd hwx hle hC, hvy.fadd hwy hle hC, hvz.fadd hwz hle hC⟩

theorem Vec3.map2_fsub_atMost {v w : Vec3} {A B C : Nat} (hv : v.atMost A = true) (hw : w.atMost B = true)
    (h : A + B ≤ C) (hC : Representable (C * 2 ^ 149)) : (Vec3.map2 fsub v w).atMost C = true := by
  rw [Vec3.atMost_iff] at hw
  obtain ⟨hwx, hwy, hwz⟩ := hw
  exact Vec3.map2_fadd_atMost (w := ⟨fneg w.x, fneg w.y, fneg w.z⟩) hv
    ((Vec3.atMost_iff _ _).2 ⟨hwx.fneg, hwy.fneg, hwz.fneg⟩) h hC

/-- The average of `n` values of at most 2^j is at most 2^j (R142). -/
theorem Vec3.divBy_atMost {v : Vec3} {j n : Nat} (hj : j < 104) (hn : 0 < n) (hn24 : n ≤ 2 ^ 24)
    (hv : v.atMost (2 ^ j * n) = true) : (v.divBy (i2f n)).atMost (2 ^ j) = true := by
  rw [Vec3.atMost_iff] at hv ⊢
  obtain ⟨hx, hy, hz⟩ := hv
  obtain ⟨hfin, hval⟩ := fVal_i2f (n := n) (by omega)
  have hmag : fMag (i2f n) = n * 2 ^ 149 := by
    rw [← natAbs_fVal, hval, Int.natAbs_mul, Int.natAbs_pow]
    rfl
  have hpos : 0 < n * 2 ^ 149 := by positivity
  have hle : 2 ^ j * n * 2 ^ 149 * 2 ^ 149 ≤ n * 2 ^ 149 * (2 ^ j * 2 ^ 149) := le_of_eq (by ring)
  have hrep : Representable (2 ^ j * 2 ^ 149) := .two_pow (by omega)
  exact ⟨hx.fdiv hfin hpos hmag.ge hle hrep, hy.fdiv hfin hpos hmag.ge hle hrep, hz.fdiv hfin hpos hmag.ge hle hrep⟩

/-- The bound of a sum of `k` samples is a binary32 value. -/
theorem representable_sum {j k : Nat} (hj : j < 104) (hk : k ≤ 2 ^ 16) : Representable (2 ^ j * k * 2 ^ 149) := by
  have h : 2 ^ j * k * 2 ^ 149 = k * 2 ^ (j + 149) := by ring
  rw [h]
  exact .of_le (hk.trans (by norm_num)) (by omega)

theorem gyroTriple_atMost (x y z : Raw) : (s.gyroTriple x y z).atMost (2 ^ 11) = true :=
  (Vec3.atMost_iff _ _).2 ⟨convGyro_bounded _ _, convGyro_bounded _ _, convGyro_bounded _ _⟩

theorem accelTriple_atMost (x y z : Raw) : (s.accelTriple x y z).atMost (2 ^ 4) = true :=
  (Vec3.atMost_iff _ _).2 ⟨convAccel_bounded _ _, convAccel_bounded _ _, convAccel_bounded _ _⟩

theorem accelLessGravity_atMost (x y z : Raw) : (s.accelLessGravity x y z).atMost (2 ^ 5) = true := by
  obtain ⟨hx, hy, hz⟩ := (Vec3.atMost_iff _ _).1 (accelTriple_atMost (s := s) x y z)
  have hgravity : Bounded G1 (2 ^ 149) := ⟨by decide, by decide⟩
  have hrep : Representable (2 ^ 5 * 2 ^ 149) := .two_pow (by norm_num)
  exact (Vec3.atMost_iff _ _).2 ⟨hx.mono (by norm_num), hy.mono (by norm_num), hz.fsub hgravity (by norm_num) hrep⟩

/-! ### The parts of the numeric bounds -/

/-- The part of `NumericSafe` that speaks of the results and of the held triple (R132, R142, R169, R177). -/
structure ResultsSafe (s : State) : Prop where
  gyroOffsets : s.offsets.gyro.atMost (2 ^ 11) = true
  accelOffsets : s.offsets.accel.atMost (2 ^ 5) = true
  acal : s.seq.acal.atMost (2 ^ 6) = true
  yawBias : atMost s.orient.yawBias (2 ^ 14) = true
  yaw : isNaN s.orient.yaw = false
  notNumeric : s.status.err ≠ 4#3

/-- The part that speaks of the sums of a running calibration (R139, R140). -/
structure SumsSafe (s : State) : Prop where
  gyroSums : s.seq.phase = .calGyro ∨ s.seq.phase = .calDelay ∨ s.seq.phase = .calFinish →
    s.seq.gsum.atMost (2 ^ 11 * s.seq.sampleIdx.toNat) = true
  gyroSumsAhead : s.seq.phase = .calAccel → s.seq.gsum.atMost (2 ^ 11 * (s.seq.sampleIdx.toNat + 1)) = true
  accelSums : s.seq.phase.calibrating = true → s.seq.asum.atMost (2 ^ 5 * s.seq.sampleIdx.toNat) = true

theorem numericSafe_iff (s : State) : NumericSafe s ↔ Legal s ∧ ResultsSafe s ∧ SumsSafe s :=
  ⟨fun h => ⟨h.legal, ⟨h.gyroOffsets, h.accelOffsets, h.acal, h.yawBias, h.yaw, h.notNumeric⟩,
      ⟨h.gyroSums, h.gyroSumsAhead, h.accelSums⟩⟩,
    fun ⟨hlegal, r, q⟩ => ⟨hlegal, r.gyroOffsets, r.accelOffsets, q.gyroSums, q.gyroSumsAhead, q.accelSums, r.acal,
      r.yawBias, r.yaw, r.notNumeric⟩⟩

/-- Where no calibration runs there are no sums to bound. -/
theorem SumsSafe.of_not_calibrating (h : t.seq.phase.calibrating = false) : SumsSafe t where
  gyroSums := fun hp => (by rcases hp with hp | hp | hp <;> rw [hp] at h <;> cases h)
  gyroSumsAhead := fun hp => (by rw [hp] at h; cases h)
  accelSums := fun hp => (by rw [hp] at h; cases h)

theorem SumsSafe.of_idle (h : t.seq.phase = .idle) : SumsSafe t := .of_not_calibrating (by rw [h]; rfl)

theorem NumericSafe.with_env (h : NumericSafe s) (env : Env) : NumericSafe { s with env := env } :=
  { h with legal := h.legal.with_env env }

/-- Of the result codes only NUMERIC has its code in ERR (R28). -/
theorem toErr_ne_numeric {code : ResultCode} (h : code ≠ .numeric) : code.toErr ≠ 4#3 := by
  cases code
  case numeric => exact absurd rfl h
  all_goals decide

theorem exhausted_ne_numeric (k : SensorKind) : k.exhausted ≠ .numeric := by
  cases k <;> decide

/-! ### Reset and the host's transactions -/

/-- Settles O45. -/
theorem resetIsLegalAndNumericallySafe : Obligations.ResetIsLegalAndNumericallySafe :=
  { legal := legal_reset, gyroOffsets := by decide, accelOffsets := by decide, gyroSums := by decide
    gyroSumsAhead := by decide, accelSums := by decide, acal := by decide, yawBias := by decide, yaw := by decide
    notNumeric := by decide }

/-- An UPDATE that is accepted, or ends at once with NOT_CALIBRATED, reports no NUMERIC (R173). -/
theorem numericSafe_acceptUpdate (hs : NumericSafe s) : NumericSafe s.acceptUpdate := by
  obtain ⟨-, hresults, -⟩ := (numericSafe_iff s).1 hs
  refine (numericSafe_iff _).2 ⟨legal_acceptUpdate hs.legal, ?_⟩
  rcases State.acceptUpdate_cases (s := s) with ⟨-, hu⟩ | ⟨-, hu⟩ <;> rw [hu]
  · exact ⟨{ hresults with notNumeric := toErr_ne_numeric (code := .ok) (by decide) }, .of_not_calibrating rfl⟩
  · exact ⟨{ hresults with notNumeric := toErr_ne_numeric (code := .notCalibrated) (by decide) }, .of_idle rfl⟩

/-- A calibration begins with the sums of no sample (R138). -/
theorem numericSafe_acceptCalibrate (hs : NumericSafe s) : NumericSafe s.acceptCalibrate := by
  obtain ⟨-, hresults, -⟩ := (numericSafe_iff s).1 hs
  have hgyro : Vec3.zero.atMost (2 ^ 11 * (0#16).toNat) = true := by decide
  have haccel : Vec3.zero.atMost (2 ^ 5 * (0#16).toNat) = true := by decide
  exact (numericSafe_iff _).2 ⟨legal_acceptCalibrate hs.legal,
    { hresults with notNumeric := toErr_ne_numeric (code := .ok) (by decide) },
    { gyroSums := fun _ => hgyro, gyroSumsAhead := fun hp => (by cases hp), accelSums := fun _ => haccel }⟩

theorem numericSafe_exec {i : Instr} (hs : NumericSafe s) (h : exec i s = .next t) : NumericSafe t := by
  have hlegal := legal_exec hs.legal h
  obtain ⟨u, hu, hcases⟩ := exec_cases i s
  obtain rfl : u = t := Host.Outcome.next.inj (hu.symm.trans h)
  rcases hcases with rfl | ⟨v, rfl⟩ | rfl | rfl | ⟨d, rfl⟩ | ⟨-, hstored⟩
  case inr.inr.inr.inr.inr =>
    rcases hstored with ⟨c, rfl⟩ | ⟨v, -, rfl⟩ | ⟨v, -, rfl⟩ | ⟨v, -, rfl | rfl⟩ | ⟨v, -, rfl | rfl⟩ | rfl | rfl
    case inr.inr.inr.inr.inr.inl => exact numericSafe_acceptCalibrate hs
    case inr.inr.inr.inr.inr.inr => exact numericSafe_acceptUpdate hs
    all_goals exact { hs with legal := hlegal }
  all_goals exact { hs with legal := hlegal }

/-! ### Block steps -/

theorem numericSafe_failedAttempt {k : SensorKind} (hs : NumericSafe s) (hk : s.seq.phase.reads = some k) :
    NumericSafe (s.failedAttempt k) := by
  obtain ⟨-, hresults, hsums⟩ := (numericSafe_iff s).1 hs
  refine (numericSafe_iff _).2 ⟨legal_failedAttempt hs.legal hk, ?_⟩
  rcases State.failedAttempt_cases (s := s) k with ⟨-, h⟩ | ⟨-, h⟩ <;> rw [h]
  · exact ⟨{ hresults with notNumeric := toErr_ne_numeric (exhausted_ne_numeric k) }, .of_idle rfl⟩
  · exact ⟨{ hresults with }, { hsums with }⟩

theorem numericSafe_addGyroSample {x y z : Raw} (hs : NumericSafe s) (hp : s.seq.phase = .calGyro) :
    NumericSafe (s.addGyroSample x y z) := by
  obtain ⟨-, hresults, hsums⟩ := (numericSafe_iff s).1 hs
  refine (numericSafe_iff _).2 ⟨legal_addGyroSample hs.legal hp, { hresults with }, ?_⟩
  have hidx : s.seq.sampleIdx.toNat + 1 ≤ 2 ^ 16 := s.seq.sampleIdx.isLt
  have hadded := Vec3.map2_fadd_atMost (hsums.gyroSums (.inl hp)) (gyroTriple_atMost (s := s) x y z)
    (Nat.mul_succ _ _).ge
    (representable_sum (j := 11) (by norm_num) hidx)
  exact {
    gyroSums := fun h => (by rcases h with h | h | h <;> cases h)
    gyroSumsAhead := fun _ => hadded
    accelSums := fun _ => hsums.accelSums (by rw [hp]; rfl) }

/-- After the accelerometer reading both sums hold one sample more (R140). -/
theorem SumsSafe.of_addAccelSample {x y z : Raw} (hs : NumericSafe s) (hp : s.seq.phase = .calAccel)
    (hseq : ∃ p m, t.seq = { (s.addAccelSample x y z).seq with phase := p, tMark := m } ∧ p ≠ .calAccel) :
    SumsSafe t := by
  obtain ⟨p, m, hseq, hne⟩ := hseq
  have hnext : (s.seq.sampleIdx + 1#16).toNat = s.seq.sampleIdx.toNat + 1 := by
    have hbelow := hs.legal.sampleIdx (.inr (.inl hp))
    have hmax := s.calN.isLt
    rw [BitVec.toNat_add, BitVec.toNat_ofNat]
    omega
  have hidx : s.seq.sampleIdx.toNat + 1 ≤ 2 ^ 16 := s.seq.sampleIdx.isLt
  have hgyro := hs.gyroSumsAhead hp
  have haccel := Vec3.map2_fadd_atMost (hs.accelSums (by rw [hp]; rfl)) (accelLessGravity_atMost (s := s) x y z)
    (Nat.mul_succ _ _).ge
    (representable_sum (j := 5) (by norm_num) hidx)
  rw [← hnext] at hgyro
  refine ⟨fun _ => ?_, fun h => ?_, fun _ => ?_⟩
  · rw [hseq]
    exact hgyro
  · rw [hseq] at h
    exact absurd h hne
  · rw [hseq]
    show (Vec3.map2 fadd s.seq.asum (s.accelLessGravity x y z)).atMost (2 ^ 5 * (s.seq.sampleIdx + 1#16).toNat) = true
    rw [hnext]
    exact haccel

theorem numericSafe_endSample {x y z : Raw} (hs : NumericSafe s) (hp : s.seq.phase = .calAccel)
    (h : s.endSample x y z = some t) : NumericSafe t := by
  have hlegal := legal_endSample hs.legal hp h
  obtain ⟨-, hresults, -⟩ := (numericSafe_iff s).1 hs
  rcases State.endSample_cases h with ⟨-, rfl⟩ | ⟨-, m, rest, -, rfl⟩
  · exact (numericSafe_iff _).2 ⟨hlegal, { hresults with }, .of_addAccelSample hs hp ⟨_, _, rfl, by decide⟩⟩
  · exact (numericSafe_iff _).2 ⟨hlegal, { hresults with }, .of_addAccelSample hs hp ⟨_, _, rfl, by decide⟩⟩

theorem numericSafe_stepCalDelay (hs : NumericSafe s) (hp : s.seq.phase = .calDelay) (h : s.stepCalDelay = some t) :
    NumericSafe t := by
  have hlegal := legal_stepCalDelay hs.legal hp h
  obtain ⟨-, hresults, hsums⟩ := (numericSafe_iff s).1 hs
  obtain ⟨m, rest, -, ⟨-, rfl⟩ | ⟨-, rfl⟩⟩ := State.stepCalDelay_cases h
  · refine (numericSafe_iff _).2 ⟨hlegal, { hresults with }, ?_⟩
    exact {
      gyroSums := fun _ => hsums.gyroSums (.inr (.inl hp))
      gyroSumsAhead := fun h => (by cases h)
      accelSums := fun _ => hsums.accelSums (by rw [hp]; rfl) }
  · exact hs.with_env _

theorem numericSafe_stepCalFinish (hs : NumericSafe s) (hp : s.seq.phase = .calFinish) :
    NumericSafe s.stepCalFinish := by
  obtain ⟨-, hresults, hsums⟩ := (numericSafe_iff s).1 hs
  have hn : 0 < s.calN.toNat := toNat_pos_of_ne_zero hs.legal.calN
  have hn24 : s.calN.toNat ≤ 2 ^ 24 := by have := s.calN.isLt; omega
  have hgyro := hsums.gyroSums (.inr (.inr hp))
  have haccel := hsums.accelSums (by rw [hp]; rfl)
  rw [hs.legal.finished hp] at hgyro haccel
  exact (numericSafe_iff _).2 ⟨legal_stepCalFinish hs.legal,
    { hresults with
      gyroOffsets := Vec3.divBy_atMost (by norm_num) hn hn24 hgyro
      accelOffsets := Vec3.divBy_atMost (by norm_num) hn hn24 haccel
      notNumeric := toErr_ne_numeric (code := .ok) (by decide) },
    .of_idle rfl⟩

theorem numericSafe_stepUpdAccel {x y z : Raw} (hs : NumericSafe s) (hp : s.seq.phase = .updAccel) :
    NumericSafe (({ s with seq := { s.seq with acal := s.calAccel x y z } } : State).enterRead .updGyro) := by
  obtain ⟨-, hresults, -⟩ := (numericSafe_iff s).1 hs
  have hcal : (s.calAccel x y z).atMost (2 ^ 6) = true :=
    Vec3.map2_fsub_atMost (accelTriple_atMost x y z) hs.accelOffsets (by norm_num) (.two_pow (i := 6) (by norm_num))
  exact (numericSafe_iff _).2 ⟨legal_stepUpdAccel hs.legal hp, { hresults with acal := hcal },
    .of_not_calibrating rfl⟩

/-- The rates of a calibrated gyro triple are bounded, so the update commits (R174, R177). -/
theorem numericSafe_finishUpdate {x y z : Raw} (hs : NumericSafe s) (hp : s.seq.phase = .updGyro)
    (h : s.finishUpdate x y z = some t) : NumericSafe t := by
  have hlegal := legal_finishUpdate hs.legal hp h
  obtain ⟨-, hresults, -⟩ := (numericSafe_iff s).1 hs
  have hrates : (s.calGyro x y z).atMost (2 ^ 12) = true :=
    Vec3.map2_fsub_atMost (gyroTriple_atMost x y z) hs.gyroOffsets (by norm_num) (.two_pow (i := 12) (by norm_num))
  obtain ⟨hx, hy, hz⟩ := (Vec3.atMost_iff _ _).1 hrates
  obtain ⟨m, rest, -, hcases⟩ := State.finishUpdate_cases h
  obtain ⟨o, ho, hbias, hyaw⟩ := exists_estimate_eq_some hs (v := s.seq.acal) m hx hy hz
  rcases hcases with ⟨o', ho', rfl⟩ | ⟨hnone, -⟩
  · obtain rfl : o = o' := Option.some.inj (ho.symm.trans ho')
    exact (numericSafe_iff _).2 ⟨hlegal,
      { hresults with
        yawBias := (atMost_iff _ _).2 hbias
        yaw := hyaw
        notNumeric := toErr_ne_numeric (code := .ok) (by decide) },
      .of_idle rfl⟩
  · rw [hnone] at ho
    cases ho

theorem numericSafe_sensorRead {k : SensorKind} {a : SensorAnswer} (hs : NumericSafe s)
    (h : s.sensorRead k = some (a, u)) : NumericSafe u ∧ u.seq = s.seq := by
  obtain ⟨hu, -⟩ := State.sensorRead_frame h
  rw [hu]
  exact ⟨hs.with_env _, rfl⟩

theorem numericSafe_blockAction (hs : NumericSafe s) (h : s.blockAction = some t) : NumericSafe t := by
  rcases blockAction_cases h with ⟨k, u, hk, hr, rfl⟩ | ⟨hp, x, y, z, u, hr, rfl⟩ | ⟨hp, x, y, z, u, hr, hend⟩ |
    ⟨hp, hdelay⟩ | ⟨hp, rfl⟩ | ⟨hp, x, y, z, u, hr, rfl⟩ | ⟨hp, x, y, z, u, hr, hfinish⟩
  case inr.inr.inr.inl => exact numericSafe_stepCalDelay hs hp hdelay
  case inr.inr.inr.inr.inl => exact numericSafe_stepCalFinish hs hp
  all_goals obtain ⟨hu, hseq⟩ := numericSafe_sensorRead hs hr
  · exact numericSafe_failedAttempt hu (hseq ▸ hk)
  · exact numericSafe_addGyroSample hu (hseq ▸ hp)
  · exact numericSafe_endSample hu (hseq ▸ hp) hend
  · exact numericSafe_stepUpdAccel hu (hseq ▸ hp)
  · exact numericSafe_finishUpdate hu (hseq ▸ hp) hfinish

theorem numericSafe_blockStep (hs : NumericSafe s) : NumericSafe s.blockStep := by
  rcases blockStep_cases s with ⟨-, h⟩ | ⟨t, ht, h⟩ <;> rw [h]
  · exact hs
  · exact numericSafe_blockAction hs ht

/-- Settles O47, by the kinds of step. -/
theorem stepKeepsNumericallySafe : Obligations.StepKeepsNumericallySafe := by
  intro s t hs h
  rcases step_cases s with ⟨-, hstep⟩ | ⟨p, rest, -, hstep⟩ | ⟨rest, -, hstep⟩ | ⟨rest, -, hstep⟩ <;>
    rw [hstep] at h
  case inr.inl => exact numericSafe_exec (hs.with_env _) h
  all_goals obtain rfl := Host.Outcome.next.inj h
  case inl => exact numericSafe_blockStep hs
  case inr.inr.inl => exact numericSafe_blockStep (hs.with_env _)
  case inr.inr.inr => exact resetIsLegalAndNumericallySafe.with_env _

/-! ### No NaN -/

theorem Vec3.not_nan_of_atMost {v : Vec3} {B : Nat} (h : v.atMost B = true) :
    isNaN v.x = false ∧ isNaN v.y = false ∧ isNaN v.z = false := by
  obtain ⟨hx, hy, hz⟩ := (Vec3.atMost_iff _ _).1 h
  exact ⟨isFinite_not_nan hx.1, isFinite_not_nan hy.1, isFinite_not_nan hz.1⟩

theorem legalCoefficient_not_nan (h : legalCoefficient a = true) : isNaN a = false :=
  isFinite_not_nan (coefficient_value h).1.1

/-- Settles O48, register by register. -/
theorem noRegisterHoldsANaN : Obligations.NoRegisterHoldsANaN := by
  intro s hs
  have hroll : isNaN s.orient.roll = false := isFinite_not_nan ((atMost_iff _ _).1 hs.legal.roll).1
  have hpitch : isNaN s.orient.pitch = false := isFinite_not_nan ((atMost_iff _ _).1 hs.legal.pitch).1
  have hbias : isNaN s.orient.yawBias = false := isFinite_not_nan ((atMost_iff _ _).1 hs.yawBias).1
  have haccTh : isNaN s.accStatTh = false := ((legalThreshold_iff_val _).1 hs.legal.accStatTh).1
  have hgzTh : isNaN s.gzStatTh = false := ((legalThreshold_iff_val _).1 hs.legal.gzStatTh).1
  obtain ⟨hgx, hgy, hgz⟩ := Vec3.not_nan_of_atMost hs.gyroOffsets
  simp only [List.forall_mem_cons, List.not_mem_nil, false_imp_iff, implies_true, and_true]
  exact ⟨⟨legalCoefficient_not_nan hs.legal.alpha, legalCoefficient_not_nan hs.legal.beta, haccTh, hgzTh, hroll, hpitch,
    hs.yaw, hbias, hgx, hgy, hgz, Vec3.not_nan_of_atMost hs.accelOffsets⟩, Vec3.not_nan_of_atMost hs.acal⟩

end Sys2Proof.Machine
end

section
/-! PROOFS. The two-argument arctangent (00_scope.md R14): Euler's series with a bound of its rest, the brackets the
model computes from it, and the rounding of a bracketed angle.

With θ = atan t the terms of the series are `c n * cos θ * sin θ ^ (2n+1)`, and the derivative of `θ` less the first
terms telescopes to one power of the sine; so the rest is positive, and up to π/4 it is at most the last term. -/

namespace Sys2Proof.Machine

/-- Term `n` of Euler's series without its coefficient. -/
noncomputable def eulerPower (n : Nat) (θ : ℝ) : ℝ := Real.cos θ * Real.sin θ ^ (2 * n + 1)

/-- The coefficient of term `n` of Euler's series. -/
noncomputable def eulerCoeff : Nat → ℝ
  | 0 => 1
  | n + 1 => eulerCoeff n * (2 * (n + 1) / (2 * n + 3))

noncomputable def eulerTerm (n : Nat) (θ : ℝ) : ℝ := eulerCoeff n * eulerPower n θ

/-- The sum of the terms up to `n`. -/
noncomputable def eulerSum (n : Nat) (θ : ℝ) : ℝ := ∑ k ∈ Finset.range (n + 1), eulerTerm k θ

variable {θ : ℝ} {n : Nat}

/-! ### Euler's series and its rest -/

theorem eulerCoeff_pos (n : Nat) : 0 < eulerCoeff n := by
  induction n with
  | zero => exact one_pos
  | succ n ih => exact mul_pos ih (by positivity)

theorem eulerCoeff_succ_mul (n : Nat) : eulerCoeff (n + 1) * (2 * n + 3) = eulerCoeff n * (2 * n + 2) := by
  rw [eulerCoeff]
  field_simp

theorem eulerTerm_zero (θ : ℝ) : eulerTerm 0 θ = Real.cos θ * Real.sin θ := by
  simp [eulerTerm, eulerCoeff, eulerPower]

theorem eulerTerm_succ (n : Nat) (θ : ℝ) :
    eulerTerm (n + 1) θ = eulerTerm n θ * (2 * (n + 1) / (2 * n + 3) * Real.sin θ ^ 2) := by
  simp only [eulerTerm, eulerPower, eulerCoeff]
  ring

theorem eulerSum_zero (θ : ℝ) : eulerSum 0 θ = eulerTerm 0 θ := by simp [eulerSum]

theorem eulerSum_succ (n : Nat) (θ : ℝ) : eulerSum (n + 1) θ = eulerSum n θ + eulerTerm (n + 1) θ :=
  Finset.sum_range_succ ..

theorem hasDerivAt_eulerPower (n : Nat) (θ : ℝ) :
    HasDerivAt (eulerPower n) ((2 * n + 1) * Real.sin θ ^ (2 * n) - (2 * n + 2) * Real.sin θ ^ (2 * n + 2)) θ := by
  refine ((Real.hasDerivAt_cos θ).mul ((Real.hasDerivAt_sin θ).pow (2 * n + 1))).congr_deriv ?_
  have hcos : Real.cos θ ^ 2 = 1 - Real.sin θ ^ 2 := Real.cos_sq' θ
  simp only [Pi.pow_apply]
  push_cast
  linear_combination (2 * n + 1) * Real.sin θ ^ (2 * n) * hcos

/-- The derivatives of the terms telescope. -/
theorem hasDerivAt_eulerSum (n : Nat) (θ : ℝ) :
    HasDerivAt (eulerSum n) (1 - eulerCoeff n * (2 * n + 2) * Real.sin θ ^ (2 * n + 2)) θ := by
  induction n with
  | zero =>
    have h := (hasDerivAt_eulerPower 0 θ).const_mul (eulerCoeff 0)
    refine (h.congr_of_eventuallyEq (.of_forall eulerSum_zero)).congr_deriv ?_
    simp [eulerCoeff]
  | succ n ih =>
    have h := ih.add ((hasDerivAt_eulerPower (n + 1) θ).const_mul (eulerCoeff (n + 1)))
    refine (h.congr_of_eventuallyEq (.of_forall (eulerSum_succ n))).congr_deriv ?_
    push_cast
    linear_combination Real.sin θ ^ (2 * n + 2) * eulerCoeff_succ_mul n

/-- Every partial sum is below the angle. -/
theorem eulerSum_le (n : Nat) (hθ : 0 ≤ θ) : eulerSum n θ ≤ θ := by
  have hderiv : ∀ x, HasDerivAt (fun x => x - eulerSum n x) (eulerCoeff n * (2 * n + 2) * Real.sin x ^ (2 * n + 2)) x :=
    fun x => ((hasDerivAt_id x).sub (hasDerivAt_eulerSum n x)).congr_deriv (by ring)
  have hmono : Monotone fun x => x - eulerSum n x := by
    refine monotone_of_deriv_nonneg (fun x => (hderiv x).differentiableAt) fun x => ?_
    rw [(hderiv x).deriv]
    have hsin : 0 ≤ Real.sin x ^ (2 * n + 2) := Even.pow_nonneg ⟨n + 1, by ring⟩ _
    have hcoeff := eulerCoeff_pos n
    positivity
  have hzero : eulerSum n 0 = 0 := by simp [eulerSum, eulerTerm, eulerPower]
  have h : 0 - eulerSum n 0 ≤ θ - eulerSum n θ := hmono hθ
  rw [hzero] at h
  linarith

theorem sin_sq_le_half (h0 : 0 ≤ θ) (h1 : θ ≤ Real.pi / 4) : Real.sin θ ^ 2 ≤ 1 / 2 := by
  have hcos : 0 ≤ Real.cos (2 * θ) := Real.cos_nonneg_of_mem_Icc ⟨by linarith [Real.pi_pos], by linarith⟩
  have hsq := Real.cos_two_mul θ
  have hone := Real.sin_sq_add_cos_sq θ
  linarith

/-- Up to π/4 the rest of the series is at most twice the square of the sine times its last term. -/
theorem le_eulerSum_add_term (n : Nat) (h0 : 0 ≤ θ) (h1 : θ ≤ Real.pi / 4) :
    θ ≤ eulerSum n θ + 2 * eulerCoeff n * eulerPower (n + 1) θ := by
  have hderiv : ∀ x, HasDerivAt (fun x => eulerSum n x + 2 * eulerCoeff n * eulerPower (n + 1) x - x)
      (eulerCoeff n * (2 * n + 4) * Real.sin x ^ (2 * n + 2) * (1 - 2 * Real.sin x ^ 2)) x := fun x => by
    refine (((hasDerivAt_eulerSum n x).add ((hasDerivAt_eulerPower (n + 1) x).const_mul (2 * eulerCoeff n))).sub
      (hasDerivAt_id x)).congr_deriv ?_
    push_cast
    ring
  have hmono : MonotoneOn (fun x => eulerSum n x + 2 * eulerCoeff n * eulerPower (n + 1) x - x)
      (Set.Icc 0 (Real.pi / 4)) := by
    refine monotoneOn_of_deriv_nonneg (convex_Icc _ _) (fun x _ => (hderiv x).continuousAt.continuousWithinAt)
      (fun x _ => (hderiv x).differentiableAt.differentiableWithinAt) fun x hx => ?_
    rw [interior_Icc] at hx
    rw [(hderiv x).deriv]
    have hsin : 0 ≤ Real.sin x ^ (2 * n + 2) := Even.pow_nonneg ⟨n + 1, by ring⟩ _
    have hhalf : 0 ≤ 1 - 2 * Real.sin x ^ 2 := by linarith [sin_sq_le_half hx.1.le hx.2.le]
    have hcoeff := eulerCoeff_pos n
    positivity
  have hzero : eulerSum n 0 + 2 * eulerCoeff n * eulerPower (n + 1) 0 - 0 = 0 := by
    simp [eulerSum, eulerTerm, eulerPower]
  have h := hmono ⟨le_rfl, by positivity⟩ ⟨h0, h1⟩ h0
  simp only [hzero] at h
  linarith

theorem eulerTerm_nonneg (n : Nat) (h0 : 0 ≤ θ) (h1 : θ ≤ Real.pi / 4) : 0 ≤ eulerTerm n θ := by
  have hpi := Real.pi_pos
  have hsin := Real.sin_nonneg_of_nonneg_of_le_pi h0 (by linarith)
  have hcos := Real.cos_nonneg_of_mem_Icc (x := θ) ⟨by linarith, by linarith⟩
  have hcoeff := eulerCoeff_pos n
  rw [eulerTerm, eulerPower]
  positivity

/-- Up to π/4 the rest of the series is at most its last term. -/
theorem le_eulerSum_add (n : Nat) (h0 : 0 ≤ θ) (h1 : θ ≤ Real.pi / 4) : θ ≤ eulerSum n θ + eulerTerm n θ := by
  have hrest := le_eulerSum_add_term n h0 h1
  have hpower : 2 * eulerCoeff n * eulerPower (n + 1) θ = eulerTerm n θ * (2 * Real.sin θ ^ 2) := by
    rw [eulerTerm, eulerPower, eulerPower]
    ring
  have hle : eulerTerm n θ * (2 * Real.sin θ ^ 2) ≤ eulerTerm n θ * 1 :=
    mul_le_mul_of_nonneg_left (by linarith [sin_sq_le_half h0 h1]) (eulerTerm_nonneg n h0 h1)
  linarith

/-! ### The model's bracket -/

/-- A pair of natural numbers encloses a real number. -/
def Encloses (b : Nat × Nat) (v : ℝ) : Prop := (b.1 : ℝ) ≤ v ∧ v ≤ b.2

/-- One step of the series: a term rounded down, of one that is less than 2 too small and at least halved, is
again less than 2 too small. -/
theorem floor_mul_term {x : ℝ} {term p q : Nat} (hq : 0 < q) (hhalf : 2 * p ≤ q) (hlo : (term : ℝ) ≤ x)
    (hhi : x ≤ term + 2) :
    ((term * p / q : Nat) : ℝ) ≤ x * (p / q) ∧ x * (p / q) ≤ ((term * p / q : Nat) : ℝ) + 2 := by
  have hqpos : (0 : ℝ) < q := by exact_mod_cast hq
  have hratio : (p : ℝ) / q ≤ 1 / 2 := by
    rw [div_le_div_iff₀ hqpos two_pos]
    exact_mod_cast (by omega : p * 2 ≤ 1 * q)
  have hnonneg : (0 : ℝ) ≤ p / q := by positivity
  constructor
  · calc ((term * p / q : Nat) : ℝ) ≤ (term * p : Nat) / q := Nat.cast_div_le
      _ = term * (p / q) := by push_cast; ring
      _ ≤ x * (p / q) := mul_le_mul_of_nonneg_right hlo hnonneg
  · have hfloor : (term : ℝ) * (p / q) ≤ ((term * p / q : Nat) : ℝ) + 1 := by
      have h := Nat.lt_div_mul_add (a := term * p) hq
      rw [← mul_div_assoc, div_le_iff₀ hqpos]
      exact_mod_cast (by rw [Nat.add_mul]; omega : term * p ≤ (term * p / q + 1) * q)
    calc x * (p / q) ≤ (term + 2) * (p / q) := mul_le_mul_of_nonneg_right hhi hnonneg
      _ ≤ _ := by linarith

/-- The running sums of `atanSeries` enclose the angle, however many terms are taken. -/
theorem atanSeries_encloses {a2 s2 P : Nat} (hs2 : 0 < s2) (hhalf : 2 * a2 ≤ s2) (h0 : 0 ≤ θ) (h1 : θ ≤ Real.pi / 4)
    (hsin : Real.sin θ ^ 2 = (a2 : ℝ) / s2) (fuel n term acc : Nat)
    (hlo : (term : ℝ) ≤ eulerTerm n θ * 2 ^ P) (hhi : eulerTerm n θ * 2 ^ P ≤ term + 2)
    (hacclo : (acc : ℝ) ≤ eulerSum n θ * 2 ^ P) (hacchi : eulerSum n θ * 2 ^ P ≤ acc + 2 * (n + 1)) :
    Encloses (atanSeries a2 s2 fuel n term acc) (θ * 2 ^ P) := by
  have hpow : (0 : ℝ) ≤ 2 ^ P := by positivity
  have hbelow : eulerSum n θ * 2 ^ P ≤ θ * 2 ^ P := mul_le_mul_of_nonneg_right (eulerSum_le n h0) hpow
  have habove : θ * 2 ^ P ≤ (eulerSum n θ + eulerTerm n θ) * 2 ^ P :=
    mul_le_mul_of_nonneg_right (le_eulerSum_add n h0 h1) hpow
  induction fuel generalizing n term acc with
  | zero =>
    rw [atanSeries]
    refine ⟨hacclo.trans hbelow, ?_⟩
    push_cast
    linarith
  | succ fuel ih =>
    rw [atanSeries]
    split
    case isTrue hterm =>
      subst hterm
      refine ⟨hacclo.trans hbelow, ?_⟩
      push_cast at hhi ⊢
      linarith
    case isFalse =>
      have hnext : eulerTerm (n + 1) θ * 2 ^ P =
          eulerTerm n θ * 2 ^ P * ((2 * (n + 1) * a2 : Nat) / ((2 * n + 3) * s2 : Nat)) := by
        rw [eulerTerm_succ, hsin]
        push_cast
        have hne : (s2 : ℝ) ≠ 0 := by positivity
        field_simp
      have hratio : 2 * (2 * (n + 1) * a2) ≤ (2 * n + 3) * s2 := by nlinarith
      obtain ⟨hnextlo, hnexthi⟩ := floor_mul_term (by positivity) hratio hlo hhi
      rw [← hnext] at hnextlo hnexthi
      have hsum : eulerSum (n + 1) θ * 2 ^ P = eulerSum n θ * 2 ^ P + eulerTerm (n + 1) θ * 2 ^ P := by
        rw [eulerSum_succ, add_mul]
      refine ih (n + 1) _ _ hnextlo hnexthi ?_ ?_ ?_ ?_
      · rw [hsum]; push_cast at hnextlo ⊢; linarith
      · rw [hsum]; push_cast at hnexthi ⊢; linarith
      · exact mul_le_mul_of_nonneg_right (eulerSum_le _ h0) hpow
      · exact mul_le_mul_of_nonneg_right (le_eulerSum_add _ h0 h1) hpow

/-- The bracket of atan (a / b), 0 < a ≤ b. -/
theorem atanBounds_encloses (P : Nat) {a b : Nat} (ha : 0 < a) (hab : a ≤ b) :
    Encloses (atanBounds P a b) (Real.arctan (a / b) * 2 ^ P) := by
  have hb : (0 : ℝ) < b := by exact_mod_cast ha.trans_le hab
  have hs2 : 0 < a * a + b * b := by positivity
  have h0 : 0 ≤ Real.arctan (a / b) := Real.arctan_nonneg.2 (by positivity)
  have h1 : Real.arctan (a / b) ≤ Real.pi / 4 := by
    rw [← Real.arctan_one]
    exact Real.arctan_mono ((div_le_one hb).2 (by exact_mod_cast hab))
  have hcos : Real.cos (Real.arctan (a / b)) ^ 2 = (b * b : ℝ) / (a * a + b * b) := by
    rw [Real.cos_sq_arctan]
    field_simp
    ring
  have hsin : Real.sin (Real.arctan (a / b)) ^ 2 = ((a * a : Nat) : ℝ) / ((a * a + b * b : Nat) : ℝ) := by
    rw [Real.sin_sq_arctan]
    push_cast
    field_simp
    ring
  have hfirst : eulerTerm 0 (Real.arctan (a / b)) * 2 ^ P =
      ((2 ^ P * (a * b) : Nat) : ℝ) / ((a * a + b * b : Nat) : ℝ) := by
    rw [eulerTerm_zero, ← Real.tan_mul_cos (Real.cos_arctan_pos _).ne', Real.tan_arctan,
      show ∀ c t : ℝ, c * (t * c) = t * c ^ 2 from fun c t => by ring, hcos]
    push_cast
    field_simp
  have hlo : ((2 ^ P * (a * b) / (a * a + b * b) : Nat) : ℝ) ≤ eulerTerm 0 (Real.arctan (a / b)) * 2 ^ P := by
    rw [hfirst]
    exact Nat.cast_div_le
  have hhi : eulerTerm 0 (Real.arctan (a / b)) * 2 ^ P ≤ ((2 ^ P * (a * b) / (a * a + b * b) : Nat) : ℝ) + 2 := by
    have hs2' : (0 : ℝ) < ((a * a + b * b : Nat) : ℝ) := by exact_mod_cast hs2
    have hfloor := Nat.lt_div_mul_add (a := 2 ^ P * (a * b)) hs2
    rw [hfirst, div_le_iff₀ hs2']
    exact_mod_cast (by rw [Nat.add_mul]; omega :
      2 ^ P * (a * b) ≤ (2 ^ P * (a * b) / (a * a + b * b) + 2) * (a * a + b * b))
  have hhalf : 2 * (a * a) ≤ a * a + b * b := by nlinarith
  refine atanSeries_encloses hs2 hhalf h0 h1 hsin P 0 _ _ hlo hhi ?_ ?_
  · rw [eulerSum_zero]
    exact hlo
  · rw [eulerSum_zero]
    simpa using hhi

/-- π/2 is twice the sum of atan 1/2 and atan 1/3. -/
theorem halfPiBounds_encloses (P : Nat) : Encloses (halfPiBounds P) (Real.pi / 2 * 2 ^ P) := by
  obtain ⟨l2, u2⟩ := atanBounds_encloses P one_pos (by norm_num : 1 ≤ 2)
  obtain ⟨l3, u3⟩ := atanBounds_encloses P one_pos (by norm_num : 1 ≤ 3)
  have hsum := Real.arctan_inv_2_add_arctan_inv_3
  rw [inv_eq_one_div, inv_eq_one_div] at hsum
  have hpi : Real.pi / 2 * 2 ^ P = 2 * (Real.arctan (1 / 2) * 2 ^ P + Real.arctan (1 / 3) * 2 ^ P) := by
    linear_combination -(2 * 2 ^ P) * hsum
  push_cast at l2 u2 l3 u3
  rw [hpi, halfPiBounds]
  constructor
  · push_cast
    linarith
  · push_cast
    linarith

theorem Encloses.add {b c : Nat × Nat} {v w : ℝ} (hb : Encloses b v) (hc : Encloses c w) :
    Encloses (b.1 + c.1, b.2 + c.2) (v + w) := by
  obtain ⟨hb1, hb2⟩ := hb
  obtain ⟨hc1, hc2⟩ := hc
  constructor <;> push_cast <;> linarith

/-- The truncated difference encloses a difference that is not negative. -/
theorem Encloses.sub {b c : Nat × Nat} {v w : ℝ} (hb : Encloses b v) (hc : Encloses c w) (hvw : 0 ≤ v - w) :
    Encloses (b.1 - c.2, b.2 - c.1) (v - w) := by
  obtain ⟨hb1, hb2⟩ := hb
  obtain ⟨hc1, hc2⟩ := hc
  constructor
  · rcases le_total b.1 c.2 with h | h
    · rw [Nat.sub_eq_zero_of_le h, Nat.cast_zero]
      exact hvw
    · rw [Nat.cast_sub h]
      linarith
  · have h : (b.2 : ℝ) ≤ ((b.2 - c.1 : Nat) : ℝ) + c.1 := by exact_mod_cast (by omega : b.2 ≤ b.2 - c.1 + c.1)
    linarith

theorem Encloses.two_mul {b : Nat × Nat} {v : ℝ} (hb : Encloses b v) : Encloses (2 * b.1, 2 * b.2) (2 * v) := by
  obtain ⟨hb1, hb2⟩ := hb
  constructor <;> push_cast <;> linarith

/-- The angle of the point with ordinate `Y` and abscissa `X`, or `-X` where `xneg`. -/
noncomputable def quadrantAngle (Y X : Nat) (xneg : Bool) : ℝ :=
  if xneg then Real.pi - Real.arctan (Y / X) else Real.arctan (Y / X)

/-- The bracket of an angle: of Y / X directly, of X / Y as the complement, in the second quadrant as the
supplement. -/
theorem angleBounds_encloses (P : Nat) {Y X : Nat} (hY : 0 < Y) (hX : 0 < X) (xneg : Bool) :
    Encloses (angleBounds P Y X xneg) (quadrantAngle Y X xneg * 2 ^ P) := by
  have hpow : (0 : ℝ) ≤ 2 ^ P := by positivity
  have hhalfPi := halfPiBounds_encloses P
  rw [angleBounds]
  by_cases hle : Y ≤ X
  · have hatan := atanBounds_encloses P hY hle
    simp only [hle, if_true]
    cases xneg
    case false => exact hatan
    case true =>
      have hangle : quadrantAngle Y X true * 2 ^ P = 2 * (Real.pi / 2 * 2 ^ P) - Real.arctan (Y / X) * 2 ^ P := by
        simp only [quadrantAngle, if_true]
        ring
      rw [hangle]
      refine hhalfPi.two_mul.sub hatan ?_
      rw [← hangle]
      have hlt := Real.arctan_lt_pi_div_two (Y / X)
      have hpi := Real.pi_pos
      refine mul_nonneg ?_ hpow
      simp only [quadrantAngle, if_true]
      linarith
  · have hatan := atanBounds_encloses P hX (Nat.le_of_not_le hle)
    have hcomplement : Real.arctan (Y / X) = Real.pi / 2 - Real.arctan (X / Y) := by
      rw [← Real.arctan_inv_of_pos (by positivity), inv_div]
    simp only [hle, if_false]
    cases xneg
    case true =>
      have hangle : quadrantAngle Y X true * 2 ^ P = Real.pi / 2 * 2 ^ P + Real.arctan (X / Y) * 2 ^ P := by
        simp only [quadrantAngle, if_true, hcomplement]
        ring
      rw [hangle]
      exact hhalfPi.add hatan
    case false =>
      have hangle : quadrantAngle Y X false * 2 ^ P = Real.pi / 2 * 2 ^ P - Real.arctan (X / Y) * 2 ^ P := by
        simp only [quadrantAngle, Bool.false_eq_true, if_false, hcomplement]
        ring
      rw [hangle]
      refine hhalfPi.sub hatan ?_
      rw [← sub_mul]
      exact mul_nonneg (by linarith [Real.arctan_lt_pi_div_two (X / Y)]) hpow

/-- Settles O59, by Euler's series (log 10). -/
theorem angleBracketEnclosesTheArctangent : Obligations.AngleBracketEnclosesTheArctangent := by
  intro P Y X hY hX right left
  obtain ⟨hrightLo, hrightHi⟩ := angleBounds_encloses P hY hX false
  obtain ⟨hleftLo, hleftHi⟩ := angleBounds_encloses P hY hX true
  exact ⟨hrightLo, hrightHi, hleftLo, hleftHi⟩

/-! ### The rounded angle -/

theorem quadrantAngle_mem {Y X : Nat} (hY : 0 < Y) (hX : 0 < X) (xneg : Bool) :
    0 < quadrantAngle Y X xneg ∧ quadrantAngle Y X xneg < Real.pi := by
  have hpos : 0 < Real.arctan (Y / X) := Real.arctan_pos.2 (by positivity)
  have hlt := Real.arctan_lt_pi_div_two (Y / X)
  have hpi := Real.pi_pos
  cases xneg <;> simp only [quadrantAngle, if_true, Bool.false_eq_true, if_false] <;> constructor <;> linarith

/-- The rounded middle of a cell is nearest to every value of the cell, where a half unit is a multiple of its
width. -/
theorem roundCell_nearest {P k : Nat} (hP : 150 ≤ P) {x : ℝ} (hlo : k ≤ x * (2 ^ (P - 149) : Nat))
    (hhi : x * (2 ^ (P - 149) : Nat) ≤ k + 1) (hx : x ≤ (2 ^ 151 : Nat)) (j : Nat) :
    |(magOfBits (roundCell P k) : ℝ) - x| ≤ |(magOfBits j : ℝ) - x| := by
  have hexp : P - 148 = P - 149 + 1 := by omega
  have heven : 2 ∣ 2 ^ (P - 149) := dvd_pow_self _ (by omega)
  have hone : 1 ≤ 2 ^ (P - 149) := Nat.one_le_two_pow
  rw [roundCell, hexp, pow_succ']
  generalize 2 ^ (P - 149) = d at *
  have hk : (k : ℝ) ≤ (2 ^ 151 * d : Nat) := by
    rw [Nat.cast_mul]
    exact hlo.trans (mul_le_mul_of_nonneg_right hx (Nat.cast_nonneg d))
  have hk' : k ≤ 2 ^ 151 * d := Nat.cast_le.1 hk
  have hfin : roundMag (2 * k + 1) (2 * d) < infBits :=
    roundMag_lt_infBits (e := 152) (by omega) (by norm_num) (by omega)
  exact roundMag_cell hone (fun m _ _ => heven.mul_left _) hlo hhi hfin j

theorem roundCell_mono {P k k' : Nat} (h : k ≤ k') : roundCell P k ≤ roundCell P k' :=
  roundMag_mono (by positivity) (by omega)

/-- A bracketed value is nearest to what the first and the last cell of its bracket round to, where they round to one
value. -/
theorem settled_nearest {P l u r : Nat} (hP : 150 ≤ P) {x : ℝ} (hpos : 0 < x * (2 ^ (P - 149) : Nat))
    (hx : x ≤ (2 ^ 151 : Nat)) (hlo : l ≤ x * (2 ^ (P - 149) : Nat)) (hhi : x * (2 ^ (P - 149) : Nat) ≤ u)
    (hcells : roundCell P l = roundCell P (u - 1)) (hr : roundCell P l = r) (j : Nat) :
    |(magOfBits r : ℝ) - x| ≤ |(magOfBits j : ℝ) - x| := by
  have hu : 0 < u := by exact_mod_cast hpos.trans_le hhi
  rcases le_or_gt ((u - 1 : Nat) : ℝ) (x * (2 ^ (P - 149) : Nat)) with hlast | hbefore
  · rw [← hr, hcells]
    refine roundCell_nearest hP hlast (hhi.trans ?_) hx j
    exact_mod_cast (by omega : u ≤ u - 1 + 1)
  · have hl := Nat.le_floor hlo
    have hk := ((Nat.floor_lt hpos.le).2 hbefore).le
    have hcell : roundCell P ⌊x * (2 ^ (P - 149) : Nat)⌋₊ = r := by
      have h1 := roundCell_mono (P := P) hl
      have h2 := roundCell_mono (P := P) hk
      omega
    rw [← hcell]
    exact roundCell_nearest hP (Nat.floor_le hpos.le) (Nat.lt_floor_add_one _).le hx j

/-- An angle whose whole bracket rounds to one value has that value as a nearest one. -/
theorem angleAt_nearest {P Y X r : Nat} {xneg : Bool} (hP : 150 ≤ P) (hY : 0 < Y) (hX : 0 < X)
    (h : angleAt P Y X xneg = some r) (j : Nat) :
    |(magOfBits r : ℝ) - quadrantAngle Y X xneg * 2 ^ 149| ≤
      |(magOfBits j : ℝ) - quadrantAngle Y X xneg * 2 ^ 149| := by
  obtain ⟨hpos, hlt⟩ := quadrantAngle_mem hY hX xneg
  have hmax : quadrantAngle Y X xneg * 2 ^ 149 ≤ (2 ^ 151 : Nat) := by
    have hfour : (2 ^ 151 : Nat) = (4 : ℝ) * 2 ^ 149 := by norm_num
    rw [hfour]
    exact mul_le_mul_of_nonneg_right (hlt.le.trans Real.pi_le_four) (by positivity)
  have hscale : quadrantAngle Y X xneg * 2 ^ P = quadrantAngle Y X xneg * 2 ^ 149 * (2 ^ (P - 149) : Nat) := by
    have hexp : 149 + (P - 149) = P := by omega
    rw [Nat.cast_pow, Nat.cast_ofNat, mul_assoc, ← pow_add, hexp]
  have hscaled : 0 < quadrantAngle Y X xneg * 2 ^ P := by positivity
  obtain ⟨hlo, hhi⟩ := angleBounds_encloses P hY hX xneg
  obtain ⟨hcells, hr⟩ : roundCell P (angleBounds P Y X xneg).1 = roundCell P ((angleBounds P Y X xneg).2 - 1) ∧
      roundCell P (angleBounds P Y X xneg).1 = r := by
    simpa [angleAt] using h
  rw [hscale] at hscaled hlo hhi
  exact settled_nearest hP hscaled hmax hlo hhi hcells hr j

/-- The precisions are tried in turn. The proof puts a variable for `angleAt` and for the recursion's step before it
reduces: of the closed terms the kernel would unfold `angleAt` down to the unary numerals of its comparison. -/
theorem angleBits_cons (P : Nat) (rest : List Nat) (Y X : Nat) (xneg : Bool) :
    angleBits (P :: rest) Y X xneg = (angleAt P Y X xneg).or (angleBits rest Y X xneg) := by
  obtain ⟨settled, hsettled⟩ : ∃ settled, settled = angleAt := ⟨_, rfl⟩
  obtain ⟨step, hstep⟩ : ∃ step, step = angleBits._f := ⟨_, rfl⟩
  obtain ⟨bits, hbits⟩ : ∃ bits, bits = angleBits := ⟨_, rfl⟩
  rw [← hbits, ← hsettled]
  delta angleBits at hbits
  rw [← hstep] at hbits
  delta angleBits._f at hstep
  rw [← hsettled] at hstep
  subst hbits hstep
  show (match settled P Y X xneg with | some r => _ | none => _) = _
  cases settled P Y X xneg <;> rfl

theorem exists_of_angleBits_eq_some {Y X r : Nat} {xneg : Bool} {l : List Nat} (h : angleBits l Y X xneg = some r) :
    ∃ P ∈ l, angleAt P Y X xneg = some r := by
  induction l with
  | nil => cases h
  | cons P rest ih =>
    rw [angleBits_cons, Option.or_eq_some_iff] at h
    rcases h with hfirst | ⟨-, hrest⟩
    · exact ⟨P, List.mem_cons_self, hfirst⟩
    · obtain ⟨Q, hQ, hangle⟩ := ih hrest
      exact ⟨Q, List.mem_cons_of_mem _ hQ, hangle⟩

/-- `π_32` is above π (R14). -/
theorem pi_lt_magOfBits_piBits : Real.pi * 2 ^ 149 < magOfBits piBits := by
  have hbits : magOfBits piBits = 13176795 * 2 ^ 127 := by decide
  rw [hbits]
  push_cast
  have hpi := Real.pi_lt_d20
  nlinarith

/-- The bound by `π_32` changes no rounded angle: a value above `π_32` is further from the angle than `π_32` is. -/
theorem le_piBits_of_nearest {v : ℝ} (hv : v < Real.pi) {r : Nat}
    (h : |(magOfBits r : ℝ) - v * 2 ^ 149| ≤ |(magOfBits piBits : ℝ) - v * 2 ^ 149|) : r ≤ piBits := by
  have habove : v * 2 ^ 149 < magOfBits piBits := by
    refine lt_trans ?_ pi_lt_magOfBits_piBits
    gcongr
  by_contra hgt
  have hlt : (magOfBits piBits : ℝ) < magOfBits r := Nat.cast_lt.2 (magOfBits_strictMono (by omega))
  rw [abs_of_pos (by linarith), abs_of_pos (by linarith)] at h
  linarith

/-! ### The two-argument arctangent -/

theorem exists_polar {X : ℝ} (hX : 0 < X) (Y : ℝ) :
    ∃ r, 0 < r ∧ X = r * Real.cos (Real.arctan (Y / X)) ∧ Y = r * Real.sin (Real.arctan (Y / X)) := by
  have hcos := Real.cos_arctan_pos (Y / X)
  refine ⟨X / Real.cos (Real.arctan (Y / X)), by positivity, ?_, ?_⟩
  · field_simp
  · rw [div_mul_eq_mul_div, mul_div_assoc, ← Real.tan_eq_sin_div_cos, Real.tan_arctan]
    field_simp

/-- The argument of a point off the axes, from the magnitudes and the signs of its coordinates. -/
theorem arg_signed {Y X : Nat} (hY : 0 < Y) (hX : 0 < X) (yneg xneg : Bool) :
    Complex.arg ⟨signed xneg X, signed yneg Y⟩ = signed yneg (quadrantAngle Y X xneg) := by
  obtain ⟨hpos, hlt⟩ := quadrantAngle_mem hY hX xneg
  obtain ⟨r, hr, hx, hy⟩ := exists_polar (X := X) (by exact_mod_cast hX) Y
  have hmem : signed yneg (quadrantAngle Y X xneg) ∈ Set.Ioc (-Real.pi) Real.pi := by
    rw [signed]
    split
    · exact ⟨by linarith, by linarith⟩
    · exact ⟨by linarith, hlt.le⟩
  have hcos : r * Real.cos (signed yneg (quadrantAngle Y X xneg)) = signed xneg X := by
    cases yneg <;> cases xneg <;> simp [signed, quadrantAngle, ← hx]
  have hsin : r * Real.sin (signed yneg (quadrantAngle Y X xneg)) = signed yneg Y := by
    cases yneg <;> cases xneg <;> simp [signed, quadrantAngle, ← hy]
  rw [← Complex.arg_mul_cos_add_sin_mul_I hr hmem]
  congr 1
  apply Complex.ext
  · rw [← hcos]
    simp [← Complex.ofReal_cos, ← Complex.ofReal_sin]
  · rw [← hsin]
    simp [← Complex.ofReal_cos, ← Complex.ofReal_sin]

theorem abs_div_sub {c : ℝ} (hc : 0 < c) (z v : ℝ) : |z / c - v| = |z - v * c| / c := by
  have h : z / c - v = (z - v * c) / c := by field_simp
  rw [h, abs_div, abs_of_pos hc]

theorem fVal_eq_signed (a : F32) : (fVal a : ℝ) = signed (fSign a) (fMag a) := by
  rw [fVal]
  cases fSign a <;> simp [signed]

/-- Of non-zero finite arguments whose rounding a precision settles, the result is that rounded angle. -/
theorem atan2Mag_of_settled {y x : F32} {r : Nat} (hy : isFinite y = true) (hx : isFinite x = true) (hy0 : fMag y ≠ 0)
    (hx0 : fMag x ≠ 0) (h : angleBits atan2Precisions (fMag y) (fMag x) (fSign x) = some r) :
    atan2Mag (fBits y) x = r := by
  have hbits : ¬ (infBits ≤ fBits y ∨ isFinite x = false) := by
    rw [isFinite_iff] at hy
    simp [hx, hy]
  have hmag : magOfBits (fBits y) = fMag y := rfl
  rw [atan2Mag, if_neg hbits, hmag, if_neg hy0, if_neg hx0, h]

/-- Settles O60: a settled rounding is the rounding of the angle, wherever in the bracket the angle lies. -/
theorem arctangentIsNearest : Obligations.ArctangentIsNearest := by
  intro y x hy hx hy0 hx0 hsettled angle w _
  obtain ⟨r, hr⟩ := Option.isSome_iff_exists.1 hsettled
  obtain ⟨P, hP, hangle⟩ := exists_of_angleBits_eq_some hr
  have hP150 : 150 ≤ P := (by decide : ∀ P ∈ atan2Precisions, 150 ≤ P) P hP
  have hypos := Nat.pos_of_ne_zero hy0
  have hxpos := Nat.pos_of_ne_zero hx0
  obtain ⟨hpos, hlt⟩ := quadrantAngle_mem hypos hxpos (fSign x)
  have hnearest := angleAt_nearest hP150 hypos hxpos hangle
  have hcap : r ≤ piBits := le_piBits_of_nearest hlt (hnearest piBits)
  have hresult : (fVal (atan2F32 y x) : ℝ) = signed (fSign y) (magOfBits r) := by
    rw [atan2F32, atan2Mag_of_settled hy hx hy0 hx0 hr, Nat.min_eq_left hcap]
    exact fVal_mkF32_real _ (hcap.trans_lt (by decide))
  have harg : angle * 2 ^ 149 = signed (fSign y) (quadrantAngle (fMag y) (fMag x) (fSign x) * 2 ^ 149) := by
    have h := arg_signed hypos hxpos (fSign y) (fSign x)
    rw [← fVal_eq_signed, ← fVal_eq_signed] at h
    show Complex.arg ⟨fVal x, fVal y⟩ * 2 ^ 149 = _
    rw [h]
    cases fSign y <;> simp [signed]
  rw [abs_div_sub (by positivity), abs_div_sub (by positivity), harg, hresult, abs_signed_sub_signed]
  refine div_le_div_of_nonneg_right ?_ (by positivity)
  exact (hnearest (fBits w)).trans (abs_fMag_sub_le w _ (by positivity))

end Sys2Proof.Machine
end
